-- ==== Sys2Proof/Word.lean ====
section
/-!
DEFINITION. The word types of the VSeq core's interface and registers (30_encoding.md R70, R72, R74,
10_state.md R21, R22, R24, R26, R32). Each is a bit vector of the width the spec gives.
-/

namespace Sys2Proof

/-- The 16-bit operation word (R70). -/
abbrev OpWord := BitVec 16

/-- The 64-bit configuration word of `cv.cfg` and `gt.cfg` (R74). -/
abbrev CfgWord := BitVec 64

/-- An IEEE-754 binary32 sample, as its bit pattern (R21, R72). -/
abbrev Sample := BitVec 32

/-- An unsigned 32-bit count: section counters, trigger counter, samples per cycle (R24, R26, R72). -/
abbrev U32 := BitVec 32

/-- A step-table slot, and the play-head register: 5 bits (R22, R51). -/
abbrev Slot := BitVec 5

/-- A CV table element: a 16-bit two's-complement value, never computed with (R32, D35). -/
abbrev CvValue := BitVec 16

/-- A tri-state code on the operand or the result bus: 8 bits (R72, R73, R77). -/
abbrev Code := BitVec 8

end Sys2Proof
end

