-- ==== Sys2Proof/Syntax.lean ====
section
/-!
DEFINITION. The operations of the block's interface, one constructor of `Instr` per row of
spec/opcode_table.json (30_encoding.md R78), the operation as the host issues it (R70, R72), the
result bus (R73) and the closed sets of names these carry.
-/

namespace Sys2Proof

/-- Playback direction (10_state.md R28; 30_encoding.md R76). Code 3 names no direction. -/
inductive Direction where
  | forward
  | backward
  | pingpong
  deriving DecidableEq, Repr

/-- The value of a gate slot (10_state.md R33; 30_encoding.md R77). -/
inductive TriState where
  | off
  | normal
  | accent
  deriving DecidableEq, Repr

/-- The closed set of reasons for which an operation is refused (60_exceptions.md R221). -/
inductive Reason where
  | reservedBits
  | badInstance
  | badSelect
  | badDirection
  | badTriState
  deriving DecidableEq, Repr

/-- The 17 operations (R78), with the index fields of the word as bounded numbers and the operands
of R72 as they stand on the operand bus. `i` is a CV engine, `t` a gate track, `s` a step-table
slot, `o` a CV output. -/
inductive Instr where
  /-- `tick` (43_dispatcher.md R200): one evaluation cycle. -/
  | tick (clk rst : Sample) (n : U32)
  /-- `edge.clk` (40_edge_detector.md R103). -/
  | edgeClk (v : Sample)
  /-- `edge.rst` (40_edge_detector.md R104). -/
  | edgeRst (v : Sample)
  /-- `cv.cfg` (41_cv_engine.md R133). -/
  | cvCfg (i : Fin 3) (cfg : CfgWord)
  /-- `cv.adv` (41_cv_engine.md R131). -/
  | cvAdv (i : Fin 3)
  /-- `cv.rst` (41_cv_engine.md R132). -/
  | cvRst (i : Fin 3)
  /-- `cv.rdstep` (41_cv_engine.md R134). -/
  | cvRdstep (i : Fin 3)
  /-- `cv.rdval` (41_cv_engine.md R135). -/
  | cvRdval (i : Fin 3) (s : Slot) (o : Fin 3)
  /-- `cv.wrval` (41_cv_engine.md R136). -/
  | cvWrval (i : Fin 3) (s : Slot) (o : Fin 3) (v : CvValue)
  /-- `gt.cfg` (42_gate_engine.md R171). -/
  | gtCfg (t : Fin 6) (cfg : CfgWord)
  /-- `gt.adv` (42_gate_engine.md R169). -/
  | gtAdv (t : Fin 6)
  /-- `gt.rst` (42_gate_engine.md R170). -/
  | gtRst (t : Fin 6)
  /-- `gt.decay` (42_gate_engine.md R172). -/
  | gtDecay (t : Fin 6) (n : U32)
  /-- `gt.rdstep` (42_gate_engine.md R173). -/
  | gtRdstep (t : Fin 6)
  /-- `gt.rdstate` (42_gate_engine.md R174). -/
  | gtRdstate (t : Fin 6) (s : Slot)
  /-- `gt.rdtrig` (42_gate_engine.md R175). -/
  | gtRdtrig (t : Fin 6)
  /-- `gt.wrstate` (42_gate_engine.md R176). -/
  | gtWrstate (t : Fin 6) (s : Slot) (v : Code)
  deriving DecidableEq, Repr

/-- The operand bus (R72): one lane for each operand type. An operation reads the lanes R72 lists
for it and no other. DESIGN CHOICE (log 1): one lane per typed operand. -/
structure Operands where
  /-- `clk` of `tick`. -/
  clk : Sample
  /-- `rst` of `tick`. -/
  rst : Sample
  /-- `n` of `tick` and of `gt.decay`. -/
  n : U32
  /-- `v` of `edge.clk` and `edge.rst`. -/
  sample : Sample
  /-- `cfg` of `cv.cfg` and `gt.cfg`. -/
  cfg : CfgWord
  /-- `v` of `cv.wrval`. -/
  value : CvValue
  /-- `v` of `gt.wrstate`. -/
  code : Code
  deriving DecidableEq, Repr

/-- An operand bus on which every lane is zero. -/
def Operands.zero : Operands := ⟨0, 0, 0, 0, 0, 0, 0⟩

/-- An operation as the host issues it: the word and the operand bus (R70). -/
structure Operation where
  word : OpWord
  operands : Operands
  deriving DecidableEq, Repr

/-- What an operation puts on the result bus (R73), with the types R73 gives. -/
inductive Result where
  /-- `edge.clk`, `edge.rst` (a rising edge), `gt.rdtrig` (the trigger is active). -/
  | bool (b : Bool)
  /-- `cv.rdstep`, `gt.rdstep`. -/
  | u5 (v : Slot)
  /-- `cv.rdval`. -/
  | int16 (v : CvValue)
  /-- `gt.rdstate`. -/
  | u8 (v : Code)
  deriving DecidableEq, Repr

/-- The mnemonic of each operation, as R78 and spec/opcode_table.json spell it. -/
def Instr.mnemonic : Instr → String
  | .tick _ _ _ => "tick"
  | .edgeClk _ => "edge.clk"
  | .edgeRst _ => "edge.rst"
  | .cvCfg _ _ => "cv.cfg"
  | .cvAdv _ => "cv.adv"
  | .cvRst _ => "cv.rst"
  | .cvRdstep _ => "cv.rdstep"
  | .cvRdval _ _ _ => "cv.rdval"
  | .cvWrval _ _ _ _ => "cv.wrval"
  | .gtCfg _ _ => "gt.cfg"
  | .gtAdv _ => "gt.adv"
  | .gtRst _ => "gt.rst"
  | .gtDecay _ _ => "gt.decay"
  | .gtRdstep _ => "gt.rdstep"
  | .gtRdstate _ _ => "gt.rdstate"
  | .gtRdtrig _ => "gt.rdtrig"
  | .gtWrstate _ _ _ => "gt.wrstate"

end Sys2Proof
end

