-- ==== Sys2Proof/Decode.lean ====
section
/-!
DEFINITION. The decoder and the encoder of operation words (30_encoding.md R70, R71, R78, R79), the
configuration word and the pseudo-operations of the assembler (R74, R82), and the opcode table as
data (spec/opcode_table.json).
-/

namespace Sys2Proof

/-! ### Fields of the operation word (R70, R71) -/

def opOf (w : OpWord) : BitVec 4 := w.extractLsb' 12 4

def instOf (w : OpWord) : BitVec 3 := w.extractLsb' 9 3

def stepOf (w : OpWord) : BitVec 5 := w.extractLsb' 4 5

def selOf (w : OpWord) : BitVec 2 := w.extractLsb' 2 2

def rsvOf (w : OpWord) : BitVec 2 := w.extractLsb' 0 2

/-- Whether the operation code uses the `inst` field (the column of R78). -/
def usesInst (op : BitVec 4) : Bool := 2 ≤ op.toNat

/-- Whether the operation code uses the `step` field (the column of R78). -/
def usesStep (op : BitVec 4) : Bool :=
  op == 0x6#4 || op == 0x7#4 || op == 0xD#4 || op == 0xF#4

/-- Whether the operation code uses the `sel` field (the column of R78). -/
def usesSel (op : BitVec 4) : Bool := op == 0x1#4 || op == 0x6#4 || op == 0x7#4

/-! ### The three decode checks, in the order of R79 -/

/-- Check 1: a reserved bit is set, or a field the operation does not use is non-zero. -/
def reservedBitsSet (w : OpWord) : Bool :=
  rsvOf w != 0 || (!usesInst (opOf w) && instOf w != 0) || (!usesStep (opOf w) && stepOf w != 0)
    || (!usesSel (opOf w) && selOf w != 0)

/-- Check 2: a CV operation with `inst > 2`, or a gate operation with `inst > 5`. -/
def instanceOutOfRange (w : OpWord) : Bool :=
  (2 ≤ (opOf w).toNat && (opOf w).toNat ≤ 7 && 2 < (instOf w).toNat)
    || (8 ≤ (opOf w).toNat && 5 < (instOf w).toNat)

/-- Check 3: `edge` with `sel > 1`, or `cv.rdval`/`cv.wrval` with `sel > 2`. -/
def selectOutOfRange (w : OpWord) : Bool :=
  (opOf w == 0x1#4 && 1 < (selOf w).toNat)
    || ((opOf w == 0x6#4 || opOf w == 0x7#4) && 2 < (selOf w).toNat)

/-- The CV engine, the gate track and the CV output an index field names. After checks 2 and 3 the
fields are in range, so the reduction modulo the count of engines or outputs changes nothing. -/
def cvIndex (inst : BitVec 3) : Fin 3 := Fin.ofNat 3 inst.toNat

def gtIndex (inst : BitVec 3) : Fin 6 := Fin.ofNat 6 inst.toNat

def outIndex (sel : BitVec 2) : Fin 3 := Fin.ofNat 3 sel.toNat

/-- The operation a word that passes the three checks names (R78), with the operand lanes R72 lists
for it. -/
def operationOf (w : OpWord) (x : Operands) : Instr :=
  let i := cvIndex (instOf w)
  let t := gtIndex (instOf w)
  let s := stepOf w
  let o := outIndex (selOf w)
  match (opOf w).toNat with
  | 0x0 => .tick x.clk x.rst x.n
  | 0x1 => if selOf w = 0 then .edgeClk x.sample else .edgeRst x.sample
  | 0x2 => .cvCfg i x.cfg
  | 0x3 => .cvAdv i
  | 0x4 => .cvRst i
  | 0x5 => .cvRdstep i
  | 0x6 => .cvRdval i s o
  | 0x7 => .cvWrval i s o x.value
  | 0x8 => .gtCfg t x.cfg
  | 0x9 => .gtAdv t
  | 0xA => .gtRst t
  | 0xB => .gtDecay t x.n
  | 0xC => .gtRdstep t
  | 0xD => .gtRdstate t s
  | 0xE => .gtRdtrig t
  | _ => .gtWrstate t s x.code

/-- Steps 1 to 3 of R79's decoder: the operation, or the reason of the first failed check. The
operand checks of step 4 belong to the operations' own rules. -/
def decode (w : OpWord) (x : Operands) : Except Reason Instr :=
  if reservedBitsSet w then .error .reservedBits
  else if instanceOutOfRange w then .error .badInstance
  else if selectOutOfRange w then .error .badSelect
  else .ok (operationOf w x)

/-- The host's view of the decoder: the opcode table gives every row 16 bits, and the operand lanes
are zero. A number that does not fit the one 16-bit word is refused (R81). -/
def decodeTableWord (nbits w : Nat) : Option Instr :=
  if w % 2 ^ nbits < 2 ^ 16 then
    match decode (BitVec.ofNat 16 (w % 2 ^ nbits)) Operands.zero with
    | .ok i => some i
    | .error _ => none
  else none

/-! ### The encoder (R70, R78) -/

/-- `encode(op, inst, step, sel)` of R70. -/
def opWord (op : BitVec 4) (inst : BitVec 3) (step : BitVec 5) (sel : BitVec 2) : OpWord :=
  op ++ inst ++ step ++ sel ++ 0#2

def fin3Inst (i : Fin 3) : BitVec 3 := BitVec.ofNat 3 i.val

def fin6Inst (t : Fin 6) : BitVec 3 := BitVec.ofNat 3 t.val

def outSel (o : Fin 3) : BitVec 2 := BitVec.ofNat 2 o.val

/-- The word of an operation. -/
def encodeWord : Instr → OpWord
  | .tick _ _ _ => opWord 0x0 0 0 0
  | .edgeClk _ => opWord 0x1 0 0 0
  | .edgeRst _ => opWord 0x1 0 0 1
  | .cvCfg i _ => opWord 0x2 (fin3Inst i) 0 0
  | .cvAdv i => opWord 0x3 (fin3Inst i) 0 0
  | .cvRst i => opWord 0x4 (fin3Inst i) 0 0
  | .cvRdstep i => opWord 0x5 (fin3Inst i) 0 0
  | .cvRdval i s o => opWord 0x6 (fin3Inst i) s (outSel o)
  | .cvWrval i s o _ => opWord 0x7 (fin3Inst i) s (outSel o)
  | .gtCfg t _ => opWord 0x8 (fin6Inst t) 0 0
  | .gtAdv t => opWord 0x9 (fin6Inst t) 0 0
  | .gtRst t => opWord 0xA (fin6Inst t) 0 0
  | .gtDecay t _ => opWord 0xB (fin6Inst t) 0 0
  | .gtRdstep t => opWord 0xC (fin6Inst t) 0 0
  | .gtRdstate t s => opWord 0xD (fin6Inst t) s 0
  | .gtRdtrig t => opWord 0xE (fin6Inst t) 0 0
  | .gtWrstate t s _ => opWord 0xF (fin6Inst t) s 0

/-- The operand lanes of an operation (R72); the lanes it does not use are zero. -/
def encodeOperands : Instr → Operands
  | .tick clk rst n => { Operands.zero with clk := clk, rst := rst, n := n }
  | .edgeClk v => { Operands.zero with sample := v }
  | .edgeRst v => { Operands.zero with sample := v }
  | .cvCfg _ cfg => { Operands.zero with cfg := cfg }
  | .cvAdv _ => Operands.zero
  | .cvRst _ => Operands.zero
  | .cvRdstep _ => Operands.zero
  | .cvRdval _ _ _ => Operands.zero
  | .cvWrval _ _ _ v => { Operands.zero with value := v }
  | .gtCfg _ cfg => { Operands.zero with cfg := cfg }
  | .gtAdv _ => Operands.zero
  | .gtRst _ => Operands.zero
  | .gtDecay _ n => { Operands.zero with n := n }
  | .gtRdstep _ => Operands.zero
  | .gtRdstate _ _ => Operands.zero
  | .gtRdtrig _ => Operands.zero
  | .gtWrstate _ _ v => { Operands.zero with code := v }

/-- The operation the host issues for an instruction. -/
def encode (i : Instr) : Operation := ⟨encodeWord i, encodeOperands i⟩

/-! ### The configuration word and the assembler's forms (R74, R82) -/

/-- The direction codes of R76. -/
def directionCode : Direction → BitVec 2
  | .forward => 0
  | .backward => 1
  | .pingpong => 2

/-- `cfgword(L, d, S, r1, r2, F, run)` of R74. -/
def cfgWord (len : BitVec 6) (dir : Direction) (split : BitVec 5) (r1 r2 : BitVec 7)
    (fill : BitVec 6) (run : Bool) : CfgWord :=
  len.setWidth 64 ||| (directionCode dir).setWidth 64 <<< 6 ||| split.setWidth 64 <<< 8
    ||| r1.setWidth 64 <<< 13 ||| r2.setWidth 64 <<< 20 ||| fill.setWidth 64 <<< 27
    ||| (BitVec.ofBool run).setWidth 64 <<< 33

/-- The assembler's `cfg(len=L, ...)` with the defaults of R82; `len` is required. -/
structure CfgKeys where
  len : BitVec 6
  dir : Direction := .forward
  split : BitVec 5 := 0
  r1 : BitVec 7 := 1
  r2 : BitVec 7 := 1
  fill : BitVec 6 := 0
  run : Bool := true
  deriving DecidableEq, Repr

/-- The word `cfg(...)` assembles to. -/
def assembleCfg (k : CfgKeys) : CfgWord :=
  cfgWord k.len k.dir k.split k.r1 k.r2 k.fill k.run

/-- The binary32 patterns of 0.0 and 1.0 (93_implementation_defined.md G5). -/
def sampleZero : Sample := 0x00000000#32

def sampleOne : Sample := 0x3F800000#32

/-- The pseudo-operations of R82, as the operations they expand to. -/
def idle (n : U32) : List Instr := [.tick sampleZero sampleZero n]

def clkPulse (n : U32) : List Instr := .tick sampleOne sampleZero n :: idle n

def rstPulse (n : U32) : List Instr := .tick sampleZero sampleOne n :: idle n

def bothPulse (n : U32) : List Instr := .tick sampleOne sampleOne n :: idle n

/-- A line of assembly (R82), with its fields and literals read (log 11). -/
inductive AsmLine where
  | op (i : Instr)
  | idle (n : U32)
  | clkPulse (n : U32)
  | rstPulse (n : U32)
  | bothPulse (n : U32)
  deriving DecidableEq, Repr

/-- The operations a line stands for. -/
def expandLine : AsmLine → List Instr
  | .op i => [i]
  | .idle n => Sys2Proof.idle n
  | .clkPulse n => Sys2Proof.clkPulse n
  | .rstPulse n => Sys2Proof.rstPulse n
  | .bothPulse n => Sys2Proof.bothPulse n

/-- The operations a host issues for a list of lines. -/
def assemble (lines : List AsmLine) : List Operation := (lines.flatMap expandLine).map encode

/-! ### The opcode table (R78, spec/opcode_table.json) -/

/-- A row of the table: a word is of this row when its masked bits equal `pat`. -/
structure OpcodeRow where
  mnemonic : String
  pat : OpWord
  mask : OpWord
  deriving DecidableEq, Repr

def opcodeTable : List OpcodeRow :=
  [⟨"tick", 0x0000, 0xFFFF⟩, ⟨"edge.clk", 0x1000, 0xFFFF⟩, ⟨"edge.rst", 0x1004, 0xFFFF⟩,
    ⟨"cv.cfg", 0x2000, 0xF1FF⟩, ⟨"cv.adv", 0x3000, 0xF1FF⟩, ⟨"cv.rst", 0x4000, 0xF1FF⟩,
    ⟨"cv.rdstep", 0x5000, 0xF1FF⟩, ⟨"cv.rdval", 0x6000, 0xF003⟩, ⟨"cv.wrval", 0x7000, 0xF003⟩]
  ++ [⟨"gt.cfg", 0x8000, 0xF1FF⟩, ⟨"gt.adv", 0x9000, 0xF1FF⟩, ⟨"gt.rst", 0xA000, 0xF1FF⟩,
    ⟨"gt.decay", 0xB000, 0xF1FF⟩, ⟨"gt.rdstep", 0xC000, 0xF1FF⟩, ⟨"gt.rdstate", 0xD000, 0xF00F⟩,
    ⟨"gt.rdtrig", 0xE000, 0xF1FF⟩, ⟨"gt.wrstate", 0xF000, 0xF00F⟩]

def OpcodeRow.matchesWord (r : OpcodeRow) (w : OpWord) : Bool := w &&& r.mask == r.pat

end Sys2Proof
end

