-- ==== Sys2Proof/Config.lean ====
section
/-!
DEFINITION. The implementation parameters of 00_scope.md R7: the ones the spec decides (with the
alternatives it keeps as parameter values) and the ones it leaves OPEN, which no proof can evaluate.
-/

namespace Sys2Proof

/-- The order in which an engine applies a coincident reset and clock edge (43_dispatcher.md R204,
decision D9). -/
inductive CoincidentOrder where
  | resetThenAdvance
  | advanceThenReset
  | resetSuppressesClock
  deriving DecidableEq, Repr

/-- The reading of Backward playback with sections enabled (41_cv_engine.md R127, R128, D19). -/
inductive BackwardSections where
  | codeMirror
  | rangeMirror
  deriving DecidableEq, Repr

namespace Config

/-- EDGE_THRESHOLD, 0.5 as a binary32 bit pattern (R7, R100; G2 says 0.5 is exact in binary32). -/
def edgeThreshold : Sample := 0x3F000000#32

/-- COINCIDENT_ORDER at the spec's value (R7, R204). -/
def coincidentOrder : CoincidentOrder := .resetThenAdvance

/-- BACKWARD_SECTIONS at the spec's value (R7, R127). -/
def backwardSections : BackwardSections := .codeMirror

/-- SAMPLE_RATE, OPEN (R7, D14). No rule reads it. -/
opaque sampleRate : Nat

/-- The uninterpreted 32-bit number behind PULSE_SAMPLES (log 5). -/
opaque pulseRaw : U32

/-- PULSE_SAMPLES, OPEN: a u32 of at least 1 (R7, D14, D36). Every value from 1 up is possible, and
nothing in Lean can tell which it is. -/
def pulseSamples : U32 := if pulseRaw = 0 then 1 else pulseRaw

/-- What a CV table element reads as until it is written, in `State.reset`. POWERON_PATTERN is OPEN
(R37, R52, D24). DESIGN CHOICE (log 4). -/
def unlistedCv : CvValue := 0

/-- What a gate slot reads as until it is written, in `State.reset`. POWERON_PATTERN is OPEN (R37,
R52, D24). DESIGN CHOICE (log 4). -/
def unlistedGate : TriState := .off

end Config

end Sys2Proof
end

