-- ==== Sys2Proof/Machine/State.lean ====
section
/-!
DEFINITION. The state of the block as plain data (10_state.md R20 to R33), the reasons a step can
stop, and the power-on state (10_state.md R37, 70_reset_and_hazards.md R240).
-/

namespace Sys2Proof.Machine

/-- An element-addressed memory: the elements that differ from what an unlisted address reads as, by
strictly rising element address (`Memory.wf` of Machine/Ops.lean; log 3). -/
abbrev Memory (α : Type) := List (Nat × α)

/-- The five configuration fields both engine kinds have (R28). -/
structure SeqCfg where
  length : BitVec 6
  direction : Direction
  splitPoint : BitVec 5
  sec1Reps : BitVec 7
  sec2Reps : BitVec 7
  deriving DecidableEq, Repr

/-- A gate track's configuration register: the five fields and the two gate-only ones (R29). -/
structure GateCfg where
  seq : SeqCfg
  fillStart : BitVec 6
  running : Bool
  deriving DecidableEq, Repr

/-- The runtime registers of an engine: play-head, pingpong direction, section counters, section
flag (R22 to R25). -/
structure Runtime where
  step : Slot
  pf : Bool
  c1 : U32
  c2 : U32
  s2 : Bool
  deriving DecidableEq, Repr

/-- A CV engine: configuration register, runtime registers, step table (R20, R28, R32). -/
structure CvEngine where
  cfg : SeqCfg
  rt : Runtime
  pat : Memory CvValue
  deriving DecidableEq, Repr

/-- A gate track: configuration register, runtime registers, trigger counter, step table
(R20, R26, R29, R33). -/
structure GateTrack where
  cfg : GateCfg
  rt : Runtime
  tc : U32
  pat : Memory TriState
  deriving DecidableEq, Repr

/-- What the refusal mark records: which word and which reason (60_exceptions.md R221). -/
structure RefusalMark where
  word : OpWord
  reason : Reason
  deriving DecidableEq, Repr

/-- The state of the block (R20), and the block's interface to its host: the result bus (R73) and the
operations the host has issued and the block has not yet taken (R59; log 2). -/
structure State where
  /-- `edge.prevClk` (R21). -/
  prevClk : Sample
  /-- `edge.prevRst` (R21). -/
  prevRst : Sample
  /-- CV engines 0 to 2. -/
  cv : Vector CvEngine 3
  /-- Gate tracks 0 to 5. -/
  gt : Vector GateTrack 6
  /-- The refusal mark: `refused` is true exactly when this is not `none` (60_exceptions.md R221). -/
  refused : Option RefusalMark
  /-- The result bus after the last operation: `none` when it returned no result (R73; log 6). -/
  result : Option Result
  /-- The operations issued and not yet taken, the next one first (log 2). -/
  pending : List Operation
  deriving DecidableEq, Repr

/-- The block raises no exceptions and no operation can fail (60_exceptions.md R220): there is no
fault, and no meaning raises one. -/
inductive Fault where
  deriving DecidableEq, Repr

/-- The reasons for which `step` answers no next state. -/
inductive Refusal where
  /-- An operation without a meaning in this model, by its mnemonic; safe. No arm of `exec` raises
  it. -/
  | notModelled (mnemonic : String)
  /-- Raised by `step` alone, in a state whose refusal mark is set: the machine takes no further step
  (60_exceptions.md R221). It names the word and the reason the mark records. Safe. -/
  | markedRefused (word : OpWord) (reason : Reason)
  deriving DecidableEq, Repr

/-! ### Power-on -/

/-- The runtime registers at power-on for a power-on configuration (R37, D23). -/
def Runtime.atPowerOn (c : SeqCfg) : Runtime :=
  { step := match c.direction with
      | .backward => BitVec.ofNat 5 (c.length.toNat - 1)
      | .forward => 0
      | .pingpong => 0
    pf := true
    c1 := 0
    c2 := 0
    s2 := false }

/-- POWER_ON (70_reset_and_hazards.md R240) for any POWERON_CONFIG (`cc`, `gc`) and any
POWERON_PATTERN (`cp`, `gp`), the two parameters the spec leaves OPEN. -/
def State.powerOn (cc : Fin 3 → SeqCfg) (gc : Fin 6 → GateCfg) (cp : Fin 3 → Memory CvValue)
    (gp : Fin 6 → Memory TriState) : State :=
  let cvAt := fun i => { cfg := cc i, rt := .atPowerOn (cc i), pat := cp i : CvEngine }
  let gtAt := fun t => { cfg := gc t, rt := .atPowerOn (gc t).seq, tc := 0, pat := gp t : GateTrack }
  { prevClk := 0
    prevRst := 0
    cv := #v[cvAt 0, cvAt 1, cvAt 2]
    gt := #v[gtAt 0, gtAt 1, gtAt 2, gtAt 3, gtAt 4, gtAt 5]
    refused := none
    result := none
    pending := [] }

/-- POWERON_CONFIG in `State.reset`: `cfg(len=1, run=0)`, the value decision D22 offers a model that
needs one. DESIGN CHOICE (log 4): the spec leaves the parameter OPEN. -/
def SeqCfg.poweron : SeqCfg :=
  { length := 1, direction := .forward, splitPoint := 0, sec1Reps := 1, sec2Reps := 1 }

def GateCfg.poweron : GateCfg := { seq := SeqCfg.poweron, fillStart := 0, running := false }

/-- The machine right after power-on, with the OPEN parameters at the model's choice (log 4). -/
def State.reset : State :=
  State.powerOn (fun _ => SeqCfg.poweron) (fun _ => GateCfg.poweron) (fun _ => []) (fun _ => [])

end Sys2Proof.Machine
end

