-- ==== Sys2Proof/Machine/Operands.lean ====
section
/-!
DEFINITION. What an operation reads from its operands: the fields of the configuration word and
their validation (30_encoding.md R74 to R76), the tri-state codes (R77), and the element addresses of
the step tables (20_memory.md R51).
-/

namespace Sys2Proof.Machine

/-- The bits `w[lo + len - 1 : lo]` of a configuration word, as a number (00_scope.md R8). -/
def cfgField (w : CfgWord) (lo len : Nat) : Nat := (w.extractLsb' lo len).toNat

/-- The direction a code names; code 3 names none (R76). -/
def directionOf (code : Nat) : Option Direction :=
  match code with
  | 0 => some .forward
  | 1 => some .backward
  | 2 => some .pingpong
  | _ => none

/-- `validate` of R75: `none` where it refuses with `BadDirection`, else the stored fields. -/
def validate (w : CfgWord) : Option GateCfg :=
  match directionOf (cfgField w 6 2) with
  | none => none
  | some d =>
    some
      { seq :=
          { length := BitVec.ofNat 6 (min (max (cfgField w 0 6) 1) 32)
            direction := d
            splitPoint := BitVec.ofNat 5 (cfgField w 8 5)
            sec1Reps := BitVec.ofNat 7 (min (max (cfgField w 13 7) 1) 99)
            sec2Reps := BitVec.ofNat 7 (min (max (cfgField w 20 7) 1) 99) }
        fillStart := BitVec.ofNat 6 (min (cfgField w 27 6) 32)
        running := cfgField w 33 1 == 1 }

/-- The tri-state value a code names (R77); `none` where the code is refused with `BadTriState`. -/
def triStateOf (v : Code) : Option TriState :=
  match v.toNat with
  | 0 => some .off
  | 1 => some .normal
  | 2 => some .accent
  | _ => none

/-- The code of a tri-state value (R77). -/
def triStateCode : TriState → Code
  | .off => 0
  | .normal => 1
  | .accent => 2

/-- The element address of slot `s`, output `o` of a CV table: one number per pair (R50, R51). -/
def cvAddr (s : Slot) (o : Fin 3) : Nat := 3 * s.toNat + o.val

/-- The element address of slot `s` of a gate table (R50, R51). -/
def gtAddr (s : Slot) : Nat := s.toNat

end Sys2Proof.Machine
end

