-- ==== Sys2Proof/Machine/Ops.lean ====
section
/-!
DEFINITION. The operations over memory and registers that every meaning is written with: the element
accesses of 20_memory.md R52, the one home of each engine, the two ways an operation completes
(30_encoding.md R73), and the block's only abnormal outcome, a refusal (60_exceptions.md R221). The
block has no exception, so there is no return from one (R220), and nothing clears the mark.
-/

namespace Sys2Proof.Machine

/-! ### Element memory -/

/-- MemRead: the listed element, or `d` where the address is not listed (R52). -/
def Memory.read {α : Type} (d : α) : Memory α → Nat → α
  | [], _ => d
  | (b, w) :: m, a => if a = b then w else Memory.read d m a

/-- MemWrite: only the addressed element changes (R52, R56). Writing `d` unlists the address, so that
equal memories are equal data. -/
def Memory.write {α : Type} [DecidableEq α] (d : α) : Memory α → Nat → α → Memory α
  | [], a, v => if v = d then [] else [(a, v)]
  | (b, w) :: m, a, v =>
    if a < b then (if v = d then (b, w) :: m else (a, v) :: (b, w) :: m)
    else if a = b then (if v = d then m else (a, v) :: m)
    else (b, w) :: Memory.write d m a v

/-- The addresses rise strictly from `lo`, stay below `bound`, and list no element equal to `d`. -/
def Memory.wfFrom {α : Type} [DecidableEq α] (d : α) (bound : Nat) : Nat → Memory α → Bool
  | _, [] => true
  | lo, (a, v) :: m =>
    decide (lo ≤ a) && decide (a < bound) && decide (v ≠ d) && Memory.wfFrom d bound (a + 1) m

/-- The canonical form of a memory of `bound` elements. -/
def Memory.wf {α : Type} [DecidableEq α] (d : α) (bound : Nat) (m : Memory α) : Bool :=
  Memory.wfFrom d bound 0 m

/-- `MemRead(cvpat[i], s, o)` (R52). -/
def cvRead (m : Memory CvValue) (s : Slot) (o : Fin 3) : CvValue :=
  Memory.read Config.unlistedCv m (cvAddr s o)

/-- `MemWrite(cvpat[i], s, o, v)` (R52). -/
def cvWrite (m : Memory CvValue) (s : Slot) (o : Fin 3) (v : CvValue) : Memory CvValue :=
  Memory.write Config.unlistedCv m (cvAddr s o) v

/-- `MemRead(gtpat[t], s)` (R52). -/
def gtRead (m : Memory TriState) (s : Slot) : TriState :=
  Memory.read Config.unlistedGate m (gtAddr s)

/-- `MemWrite(gtpat[t], s, v)` (R52). -/
def gtWrite (m : Memory TriState) (s : Slot) (v : TriState) : Memory TriState :=
  Memory.write Config.unlistedGate m (gtAddr s) v

/-! ### The registers outside the engines -/

/-- Replace `edge.prevClk`. -/
def State.setPrevClk (s : State) (v : Sample) : State := { s with prevClk := v }

/-- Replace `edge.prevRst`. -/
def State.setPrevRst (s : State) (v : Sample) : State := { s with prevRst := v }

/-- Replace the refusal mark. -/
def State.setRefused (s : State) (m : Option RefusalMark) : State := { s with refused := m }

/-- Replace what is on the result bus. -/
def State.setResult (s : State) (r : Option Result) : State := { s with result := r }

/-- Replace the list of issued operations. -/
def State.setPending (s : State) (p : List Operation) : State := { s with pending := p }

/-! ### Engines -/

/-- CV engine `i`. -/
def State.cvEngine (s : State) (i : Fin 3) : CvEngine := s.cv[i]

/-- Gate track `t`. -/
def State.gtTrack (s : State) (t : Fin 6) : GateTrack := s.gt[t]

/-- Replace CV engine `i`; nothing else changes. -/
def State.setCv (s : State) (i : Fin 3) (e : CvEngine) : State := { s with cv := s.cv.set i e }

/-- Replace gate track `t`; nothing else changes. -/
def State.setGt (s : State) (t : Fin 6) (g : GateTrack) : State := { s with gt := s.gt.set t g }

/-- Apply a rule to CV engine `i`. -/
def State.updCv (i : Fin 3) (f : CvEngine → CvEngine) (s : State) : State :=
  s.setCv i (f (s.cvEngine i))

/-- Apply a rule to gate track `t`. -/
def State.updGt (t : Fin 6) (f : GateTrack → GateTrack) (s : State) : State :=
  s.setGt t (f (s.gtTrack t))

/-- One of the nine engines (10_state.md R20, 60_exceptions.md R228). -/
inductive EngineId where
  | cv (i : Fin 3)
  | gt (t : Fin 6)
  deriving DecidableEq, Repr

/-- The index order of the gate tracks (43_dispatcher.md R200, R202). -/
def gtOrder : List (Fin 6) := [0, 1, 2, 3, 4, 5]

/-- The fixed order in which the edges are delivered (R203). -/
def engineOrder : List EngineId :=
  [.cv 0, .cv 1, .cv 2, .gt 0, .gt 1, .gt 2, .gt 3, .gt 4, .gt 5]

/-- Apply to one engine the rule of its kind. -/
def State.updEngine (f : CvEngine → CvEngine) (g : GateTrack → GateTrack) (s : State) :
    EngineId → State
  | .cv i => s.updCv i f
  | .gt t => s.updGt t g

/-- Apply to every engine of a list, in its order, the rule of its kind. -/
def State.forEngines (es : List EngineId) (f : CvEngine → CvEngine) (g : GateTrack → GateTrack)
    (s : State) : State :=
  es.foldl (State.updEngine f g) s

/-- Apply a rule to every gate track of a list, in its order. -/
def State.forGt (ts : List (Fin 6)) (f : GateTrack → GateTrack) (s : State) : State :=
  ts.foldl (fun s t => s.updGt t f) s

/-! ### How an operation ends -/

/-- The operation completes and returns no result (R73). -/
def done (s : State) : Host.Outcome State Fault Refusal := .next (s.setResult none)

/-- The operation completes with a value on the result bus (R73). -/
def answer (r : Result) (s : State) : Host.Outcome State Fault Refusal :=
  .next (s.setResult (some r))

/-- `refuse(reason)` (00_scope.md R12, 60_exceptions.md R221): the mark is set and records the word
and the reason, and no other state of the block changes. A refused operation returns no result
(log 6). -/
def refuse (w : OpWord) (r : Reason) (s : State) : State :=
  (s.setRefused (some ⟨w, r⟩)).setResult none

end Sys2Proof.Machine
end

