-- ==== Sys2Proof/Machine/Flags.lean ====
section
/-!
DEFINITION. Every condition the rules compute: the binary32 comparisons of the Edge Detector
(00_scope.md R10, 40_edge_detector.md R100, R101), whether sections are enabled (41_cv_engine.md R121),
the fill-override comparator (42_gate_engine.md R162) and the trigger output (10_state.md R27).
-/

namespace Sys2Proof.Machine

/-! ### Binary32 ordered comparisons -/

/-- The 31 bits below the sign, as a number. -/
def f32Magnitude (v : Sample) : Nat := v.toNat % 2 ^ 31

/-- Exponent all ones and fraction non-zero. -/
def f32IsNaN (v : Sample) : Bool := decide (0x7F800000 < f32Magnitude v)

/-- An integer that orders the binary32 numbers as their values do, the two zeros alike. PRESUMED
(log 7): the IEEE-754 binary32 format is not spelled out in the spec. -/
def f32Key (v : Sample) : Int :=
  if v.toNat < 2 ^ 31 then (f32Magnitude v : Int) else -(f32Magnitude v : Int)

/-- The ordered comparison `a <= b`: false when an operand is NaN (R10). -/
def f32Le (a b : Sample) : Bool :=
  !f32IsNaN a && !f32IsNaN b && decide (f32Key a ≤ f32Key b)

/-- The ordered comparison `a > b`: false when an operand is NaN (R10). -/
def f32Gt (a b : Sample) : Bool :=
  !f32IsNaN a && !f32IsNaN b && decide (f32Key b < f32Key a)

/-! ### The edge comparators -/

/-- `v > EDGE_THRESHOLD` (R100). -/
def sampleHigh (v : Sample) : Bool := f32Gt v Config.edgeThreshold

/-- `v <= EDGE_THRESHOLD` (R100). -/
def sampleLow (v : Sample) : Bool := f32Le v Config.edgeThreshold

/-- The rising-edge function (R101). -/
def rising (prev cur : Sample) : Bool := sampleLow prev && sampleHigh cur

/-! ### Configuration fields and play-head as integers (00_scope.md R9, R11) -/

abbrev SeqCfg.L (c : SeqCfg) : Int := (c.length.toNat : Int)

abbrev SeqCfg.S (c : SeqCfg) : Int := (c.splitPoint.toNat : Int)

abbrev SeqCfg.r1 (c : SeqCfg) : Int := (c.sec1Reps.toNat : Int)

abbrev SeqCfg.r2 (c : SeqCfg) : Int := (c.sec2Reps.toNat : Int)

abbrev GateCfg.F (c : GateCfg) : Int := (c.fillStart.toNat : Int)

/-- The play-head as an integer. -/
abbrev Runtime.pos (r : Runtime) : Int := (r.step.toNat : Int)

/-- The 5-bit play-head register that holds an integer. -/
def slotOf (n : Int) : Slot := BitVec.ofInt 5 n

/-! ### The automaton's conditions -/

/-- Sections are enabled iff `0 < S < L` (R121). -/
def sectionsEnabled (c : SeqCfg) : Bool := decide (0 < c.S) && decide (c.S < c.L)

/-- FILL_COND on the incremented step `n` (R162). -/
def fillCond (c : GateCfg) (r : Runtime) (n : Int) : Bool :=
  decide (c.seq.direction = .forward) && !r.s2 && sectionsEnabled c.seq && decide (0 < c.F)
    && decide (c.F < c.seq.S) && decide (1 < c.seq.r1)
    && decide ((r.c1.toNat : Int) = c.seq.r1 - 1) && decide (c.F ≤ n)

/-- "Non-Off" (R77). -/
def nonOff (v : TriState) : Bool := decide (v ≠ .off)

/-- `triggerActive(t)`: the trigger counter is above 0 (R27). -/
def triggerActive (tc : U32) : Bool := decide (0 < tc.toNat)

end Sys2Proof.Machine
end

