-- ==== Sys2Proof/Machine/Automaton.lean ====
section
/-!
DEFINITION. The step-advance automaton on the runtime registers of one engine: the sub-rules of
41_cv_engine.md (R122 to R130) and the ones 42_gate_engine.md replaces or adds (R161 to R164). Each is
a function of the configuration and the runtime registers before it; `n` is a mathematical integer
(00_scope.md R9). The two kinds of engine share the rules the spec says they share.
-/

namespace Sys2Proof.Machine

/-- CLAMP (R122). Only `step` is written. -/
def clamp (c : SeqCfg) (r : Runtime) : Runtime :=
  if r.pos > c.L - 1 then { r with step := slotOf (c.L - 1) } else r

/-- FWD_NOSEC (R123). -/
def fwdNosec (c : SeqCfg) (r : Runtime) : Runtime :=
  let n := r.pos + 1
  { r with step := slotOf (if n ≥ c.L then 0 else n) }

/-- BWD_NOSEC (R124). -/
def bwdNosec (c : SeqCfg) (r : Runtime) : Runtime :=
  let n := r.pos - 1
  { r with step := slotOf (if n < 0 then c.L - 1 else n) }

/-- PP_CV (R125): the end steps are played twice. -/
def ppCv (c : SeqCfg) (r : Runtime) : Runtime :=
  if r.pf then
    let n := r.pos + 1
    if n ≥ c.L then { r with step := slotOf (c.L - 1), pf := false }
    else { r with step := slotOf n }
  else
    let n := r.pos - 1
    if n < 0 then { r with step := 0, pf := true }
    else { r with step := slotOf n }

/-- PP_GATE (R161): the turnaround skips a step. -/
def ppGate (c : SeqCfg) (r : Runtime) : Runtime :=
  if r.pf then
    let n := r.pos + 1
    if n ≥ c.L then { r with step := slotOf (max 0 (c.L - 2)), pf := false }
    else { r with step := slotOf n }
  else
    let n := r.pos - 1
    if n < 0 then { r with step := slotOf (min 1 (c.L - 1)), pf := true }
    else { r with step := slotOf n }

/-- FWD_SEC (R126). The counters wrap modulo 2^32 and are compared by equality (R24, D16). -/
def fwdSec (c : SeqCfg) (r : Runtime) : Runtime :=
  let n := r.pos + 1
  if !r.s2 then
    if n ≥ c.S then
      if ((r.c1 + 1).toNat : Int) = c.r1 then { r with c1 := 0, s2 := true, step := slotOf c.S }
      else { r with c1 := r.c1 + 1, step := 0 }
    else { r with step := slotOf n }
  else
    if n ≥ c.L then
      if ((r.c2 + 1).toNat : Int) = c.r2 then { r with c2 := 0, c1 := 0, s2 := false, step := 0 }
      else { r with c2 := r.c2 + 1, step := slotOf c.S }
    else { r with step := slotOf n }

/-- BWD_SEC_CM (R127): the mirror of FWD_SEC, the S1-state playing `[S, L)` downward. -/
def bwdSecCm (c : SeqCfg) (r : Runtime) : Runtime :=
  let n := r.pos - 1
  if !r.s2 then
    if n < c.S then
      if ((r.c1 + 1).toNat : Int) = c.r1 then
        { r with c1 := 0, s2 := true, step := slotOf (c.S - 1) }
      else { r with c1 := r.c1 + 1, step := slotOf (c.L - 1) }
    else { r with step := slotOf n }
  else
    if n < 0 then
      if ((r.c2 + 1).toNat : Int) = c.r2 then
        { r with c2 := 0, c1 := 0, s2 := false, step := slotOf (c.L - 1) }
      else { r with c2 := r.c2 + 1, step := slotOf (c.S - 1) }
    else { r with step := slotOf n }

/-- BWD_SEC_RM (R128): the sections keep their ranges and only the direction of travel turns. -/
def bwdSecRm (c : SeqCfg) (r : Runtime) : Runtime :=
  let n := r.pos - 1
  if !r.s2 then
    if n < 0 then
      if ((r.c1 + 1).toNat : Int) = c.r1 then
        { r with c1 := 0, s2 := true, step := slotOf (c.L - 1) }
      else { r with c1 := r.c1 + 1, step := slotOf (c.S - 1) }
    else { r with step := slotOf n }
  else
    if n < c.S then
      if ((r.c2 + 1).toNat : Int) = c.r2 then
        { r with c2 := 0, c1 := 0, s2 := false, step := slotOf (c.S - 1) }
      else { r with c2 := r.c2 + 1, step := slotOf (c.L - 1) }
    else { r with step := slotOf n }

/-- Backward with sections enabled, by BACKWARD_SECTIONS (R129, R164). -/
def bwdSec (b : BackwardSections) (c : SeqCfg) (r : Runtime) : Runtime :=
  match b with
  | .codeMirror => bwdSecCm c r
  | .rangeMirror => bwdSecRm c r

/-- FWD_SEC_GATE (R163): the fill is tested first, and only one of the two branches runs. -/
def fwdSecGate (c : GateCfg) (r : Runtime) : Runtime :=
  if fillCond c r (r.pos + 1) then { r with c1 := 0, s2 := true, step := slotOf c.seq.S }
  else fwdSec c.seq r

/-- ADVANCE_CV (R129). -/
def advanceCv (b : BackwardSections) (c : SeqCfg) (r : Runtime) : Runtime :=
  match c.direction with
  | .pingpong => ppCv c r
  | .forward => if sectionsEnabled c then fwdSec c r else fwdNosec c r
  | .backward => if sectionsEnabled c then bwdSec b c r else bwdNosec c r

/-- ADVANCE_GATE (R164). -/
def advanceGate (b : BackwardSections) (c : GateCfg) (r : Runtime) : Runtime :=
  match c.seq.direction with
  | .pingpong => ppGate c.seq r
  | .forward => if sectionsEnabled c.seq then fwdSecGate c r else fwdNosec c.seq r
  | .backward => if sectionsEnabled c.seq then bwdSec b c.seq r else bwdNosec c.seq r

/-- RESET_ENGINE (R130), shared by both kinds. It reads only the configuration. -/
def resetEngine (c : SeqCfg) (_r : Runtime) : Runtime :=
  { step := if c.direction = .backward then slotOf (c.L - 1) else 0
    pf := true
    c1 := 0
    c2 := 0
    s2 := false }

end Sys2Proof.Machine
end

