-- ==== Sys2Proof/Machine/Cv.lean ====
section
/-!
DEFINITION. The CV Step Engine's operations (41_cv_engine.md section 2).
-/

namespace Sys2Proof.Machine

/-- ADVANCE_CV on an engine (R129), for a value of BACKWARD_SECTIONS. -/
def cvAdvance (b : BackwardSections) (e : CvEngine) : CvEngine :=
  { e with rt := advanceCv b e.cfg e.rt }

/-- RESET_ENGINE on a CV engine (R130). -/
def cvReset (e : CvEngine) : CvEngine := { e with rt := resetEngine e.cfg e.rt }

/-- A validated configuration is stored and the play-head clamped (R133); the gate-only fields of the
word are ignored (R74). -/
def cvConfigure (c : GateCfg) (e : CvEngine) : CvEngine :=
  { e with cfg := c.seq, rt := clamp c.seq e.rt }

/-- `cv.cfg i, cfg` (R133). -/
def execCvCfg (i : Fin 3) (cfg : CfgWord) (s : State) : Host.Outcome State Fault Refusal :=
  match validate cfg with
  | none => .next (refuse (encodeWord (.cvCfg i cfg)) .badDirection s)
  | some c => done (s.updCv i (cvConfigure c))

/-- `cv.adv i` (R131). -/
def execCvAdv (i : Fin 3) (s : State) : Host.Outcome State Fault Refusal :=
  done (s.updCv i (cvAdvance Config.backwardSections))

/-- `cv.rst i` (R132). -/
def execCvRst (i : Fin 3) (s : State) : Host.Outcome State Fault Refusal :=
  done (s.updCv i cvReset)

/-- `cv.rdstep i` (R134). -/
def execCvRdstep (i : Fin 3) (s : State) : Host.Outcome State Fault Refusal :=
  answer (.u5 (s.cvEngine i).rt.step) s

/-- `cv.rdval i, s, o` (R135). -/
def execCvRdval (i : Fin 3) (slot : Slot) (o : Fin 3) (s : State) :
    Host.Outcome State Fault Refusal :=
  answer (.int16 (cvRead (s.cvEngine i).pat slot o)) s

/-- `cv.wrval i, s, o, v` (R136). -/
def execCvWrval (i : Fin 3) (slot : Slot) (o : Fin 3) (v : CvValue) (s : State) :
    Host.Outcome State Fault Refusal :=
  done (s.updCv i fun e => { e with pat := cvWrite e.pat slot o v })

end Sys2Proof.Machine
end

