-- ==== Sys2Proof/Machine/Edge.lean ====
section
/-!
DEFINITION. The Edge Detector (40_edge_detector.md): `edge.clk` and `edge.rst`.
-/

namespace Sys2Proof.Machine

/-- `evaluate(Clk, cur)` (R102): the edge and the state with the new memory. -/
def evaluateClk (cur : Sample) (s : State) : Bool × State :=
  (rising s.prevClk cur, s.setPrevClk cur)

/-- `evaluate(Rst, cur)` (R102): the edge and the state with the new memory. -/
def evaluateRst (cur : Sample) (s : State) : Bool × State :=
  (rising s.prevRst cur, s.setPrevRst cur)

/-- `edge.clk v` (R103): the clock signal alone; the edge is dispatched to no engine. -/
def execEdgeClk (v : Sample) (s : State) : Host.Outcome State Fault Refusal :=
  answer (.bool (evaluateClk v s).1) (evaluateClk v s).2

/-- `edge.rst v` (R104): the reset signal alone. -/
def execEdgeRst (v : Sample) (s : State) : Host.Outcome State Fault Refusal :=
  answer (.bool (evaluateRst v s).1) (evaluateRst v s).2

end Sys2Proof.Machine
end

