-- ==== Sys2Proof/Machine/Gate.lean ====
section
/-!
DEFINITION. The Gate Step Engine's rules and operations (42_gate_engine.md).
-/

namespace Sys2Proof.Machine

/-- TRIGGER_SET (R166): a non-Off slot under the play-head loads the pulse duration `p`; an Off slot
leaves the counter. -/
def triggerSet (p : U32) (g : GateTrack) : GateTrack :=
  if nonOff (gtRead g.pat g.rt.step) then { g with tc := p } else g

/-- GATE_ADVANCE (R167), for a value of BACKWARD_SECTIONS and of PULSE_SAMPLES: nothing happens on a
stopped track (R165). -/
def gateAdvance (b : BackwardSections) (p : U32) (g : GateTrack) : GateTrack :=
  if g.cfg.running then triggerSet p { g with rt := advanceGate b g.cfg g.rt } else g

/-- RESET_GT (R170, 43_dispatcher.md R204): nothing happens on a stopped track. -/
def gateReset (g : GateTrack) : GateTrack :=
  if g.cfg.running then { g with rt := resetEngine g.cfg.seq g.rt } else g

/-- DECAY (R168): saturating, whether or not the track runs. -/
def gateDecay (n : U32) (g : GateTrack) : GateTrack :=
  { g with tc := if n.toNat ≤ g.tc.toNat then g.tc - n else 0 }

/-- A validated configuration is stored and the play-head clamped, whether or not the track runs
(R171). -/
def gateConfigure (c : GateCfg) (g : GateTrack) : GateTrack :=
  { g with cfg := c, rt := clamp c.seq g.rt }

/-- `gt.cfg t, cfg` (R171). -/
def execGtCfg (t : Fin 6) (cfg : CfgWord) (s : State) : Host.Outcome State Fault Refusal :=
  match validate cfg with
  | none => .next (refuse (encodeWord (.gtCfg t cfg)) .badDirection s)
  | some c => done (s.updGt t (gateConfigure c))

/-- `gt.adv t` (R169). -/
def execGtAdv (t : Fin 6) (s : State) : Host.Outcome State Fault Refusal :=
  done (s.updGt t (gateAdvance Config.backwardSections Config.pulseSamples))

/-- `gt.rst t` (R170). -/
def execGtRst (t : Fin 6) (s : State) : Host.Outcome State Fault Refusal :=
  done (s.updGt t gateReset)

/-- `gt.decay t, n` (R172). -/
def execGtDecay (t : Fin 6) (n : U32) (s : State) : Host.Outcome State Fault Refusal :=
  done (s.updGt t (gateDecay n))

/-- `gt.rdstep t` (R173). -/
def execGtRdstep (t : Fin 6) (s : State) : Host.Outcome State Fault Refusal :=
  answer (.u5 (s.gtTrack t).rt.step) s

/-- `gt.rdstate t, s` (R174). -/
def execGtRdstate (t : Fin 6) (slot : Slot) (s : State) : Host.Outcome State Fault Refusal :=
  answer (.u8 (triStateCode (gtRead (s.gtTrack t).pat slot))) s

/-- `gt.rdtrig t` (R175). -/
def execGtRdtrig (t : Fin 6) (s : State) : Host.Outcome State Fault Refusal :=
  answer (.bool (triggerActive (s.gtTrack t).tc)) s

/-- `gt.wrstate t, s, v` (R176). -/
def execGtWrstate (t : Fin 6) (slot : Slot) (v : Code) (s : State) :
    Host.Outcome State Fault Refusal :=
  match triStateOf v with
  | none => .next (refuse (encodeWord (.gtWrstate t slot v)) .badTriState s)
  | some x => done (s.updGt t fun g => { g with pat := gtWrite g.pat slot x })

end Sys2Proof.Machine
end

