-- ==== Sys2Proof/Machine/Tick.lean ====
section
/-!
DEFINITION. The Dispatcher: one evaluation cycle, `tick` (43_dispatcher.md).
-/

namespace Sys2Proof.Machine

/-- DISPATCH_CV (R204) on one engine, for a value of COINCIDENT_ORDER. -/
def dispatchCv (o : CoincidentOrder) (b : BackwardSections) (ce re : Bool) (e : CvEngine) :
    CvEngine :=
  match o with
  | .resetThenAdvance =>
    let e := if re then cvReset e else e
    if ce then cvAdvance b e else e
  | .advanceThenReset =>
    let e := if ce then cvAdvance b e else e
    if re then cvReset e else e
  | .resetSuppressesClock => if re then cvReset e else if ce then cvAdvance b e else e

/-- DISPATCH_GT (R204) on one track, for a value of COINCIDENT_ORDER. The running test is made inside
the gate rules (R203). -/
def dispatchGt (o : CoincidentOrder) (b : BackwardSections) (p : U32) (ce re : Bool)
    (g : GateTrack) : GateTrack :=
  match o with
  | .resetThenAdvance =>
    let g := if re then gateReset g else g
    if ce then gateAdvance b p g else g
  | .advanceThenReset =>
    let g := if ce then gateAdvance b p g else g
    if re then gateReset g else g
  | .resetSuppressesClock => if re then gateReset g else if ce then gateAdvance b p g else g

/-- TICK (R200), with the edge results handed to the engines in the order `es`. -/
def tickIn (es : List EngineId) (clk rst : Sample) (n : U32) (s : State) : State :=
  let (ce, s) := evaluateClk clk s
  let (re, s) := evaluateRst rst s
  let s := s.forGt gtOrder (gateDecay n)
  s.forEngines es (dispatchCv Config.coincidentOrder Config.backwardSections ce re)
    (dispatchGt Config.coincidentOrder Config.backwardSections Config.pulseSamples ce re)

/-- `tick clk, rst, n` (R200 to R204), in the order of R203. -/
def execTick (clk rst : Sample) (n : U32) (s : State) : Host.Outcome State Fault Refusal :=
  done (tickIn engineOrder clk rst n s)

end Sys2Proof.Machine
end

