-- ==== Sys2Proof/Machine/Dispatch.lean ====
section
/-!
DEFINITION. One arm per operation of 30_encoding.md R78.
-/

namespace Sys2Proof.Machine

def exec (op : Instr) (s : State) : Host.Outcome State Fault Refusal :=
  match op with
  -- Dispatcher
  | .tick clk rst n => Sys2Proof.Machine.execTick clk rst n s
  -- Edge Detector
  | .edgeClk v => Sys2Proof.Machine.execEdgeClk v s
  | .edgeRst v => Sys2Proof.Machine.execEdgeRst v s
  -- CV Step Engine
  | .cvCfg i cfg => Sys2Proof.Machine.execCvCfg i cfg s
  | .cvAdv i => Sys2Proof.Machine.execCvAdv i s
  | .cvRst i => Sys2Proof.Machine.execCvRst i s
  | .cvRdstep i => Sys2Proof.Machine.execCvRdstep i s
  | .cvRdval i slot o => Sys2Proof.Machine.execCvRdval i slot o s
  | .cvWrval i slot o v => Sys2Proof.Machine.execCvWrval i slot o v s
  -- Gate Step Engine
  | .gtCfg t cfg => Sys2Proof.Machine.execGtCfg t cfg s
  | .gtAdv t => Sys2Proof.Machine.execGtAdv t s
  | .gtRst t => Sys2Proof.Machine.execGtRst t s
  | .gtDecay t n => Sys2Proof.Machine.execGtDecay t n s
  | .gtRdstep t => Sys2Proof.Machine.execGtRdstep t s
  | .gtRdstate t slot => Sys2Proof.Machine.execGtRdstate t slot s
  | .gtRdtrig t => Sys2Proof.Machine.execGtRdtrig t s
  | .gtWrstate t slot v => Sys2Proof.Machine.execGtWrstate t slot v s

end Sys2Proof.Machine
end

