-- ==== Sys2Proof/Machine/Step.lean ====
section
/-!
DEFINITION. One step: the block takes the next operation its host has issued (00_scope.md R13,
20_memory.md R59), refuses it or executes it.
-/

namespace Sys2Proof.Machine

/-- A machine whose mark is set takes no further step (60_exceptions.md R221). Otherwise the next
issued operation is decoded (30_encoding.md R79) and refused or executed; while the host has issued
nothing, nothing changes (60_exceptions.md R229, 70_reset_and_hazards.md R240). -/
def step (s : State) : Host.Outcome State Fault Refusal :=
  match s.refused with
  | some m => .refused (.markedRefused m.word m.reason)
  | none =>
    match s.pending with
    | [] => .next s
    | op :: rest =>
      match decode op.word op.operands with
      | .error r => .next (refuse op.word r (s.setPending rest))
      | .ok i => exec i (s.setPending rest)

/-- The host issues one operation, ahead of any other, with every operand lane zero (log 2). -/
def State.withFetchWord (s : State) (nbits w : Nat) : State :=
  s.setPending (⟨BitVec.ofNat 16 (w % 2 ^ nbits), Operands.zero⟩ :: s.pending)

end Sys2Proof.Machine
end

