-- ==== Sys2Proof/WellFormed.lean ====
section
/-!
DEFINITION. Which operations pass the operand checks of step 4 of 30_encoding.md R79. The index
fields need no check here: their types hold no value that R79's steps 2 and 3 refuse.
-/

namespace Sys2Proof

/-- A configuration word whose direction code is 3 is refused with `BadDirection` (R76); a tri-state
code above 2 is refused with `BadTriState` (R77). Every other operand value is accepted. -/
def Instr.WellFormed : Instr → Bool
  | .cvCfg _ cfg => (cfg >>> 6) % 4#64 != 3#64
  | .gtCfg _ cfg => (cfg >>> 6) % 4#64 != 3#64
  | .gtWrstate _ _ v => decide (v.toNat ≤ 2)
  | .tick _ _ _ => true
  | .edgeClk _ => true
  | .edgeRst _ => true
  | .cvAdv _ => true
  | .cvRst _ => true
  | .cvRdstep _ => true
  | .cvRdval _ _ _ => true
  | .cvWrval _ _ _ _ => true
  | .gtAdv _ => true
  | .gtRst _ => true
  | .gtDecay _ _ => true
  | .gtRdstep _ => true
  | .gtRdstate _ _ => true
  | .gtRdtrig _ => true

end Sys2Proof
end

