-- ==== Sys2Proof/Safety.lean ====
section
/-!
DEFINITION. What counts as a good state and a safe run: the invariants of 10_state.md R28, R29, R34,
R35 and of 20_memory.md R50 to R52, and a run in which no operation is refused.
-/

namespace Sys2Proof.Machine

/-- A stored configuration holds legal values (R28, R75). -/
def SeqCfg.Legal (c : SeqCfg) : Prop :=
  1 ≤ c.length.toNat ∧ c.length.toNat ≤ 32 ∧ 1 ≤ c.sec1Reps.toNat ∧ c.sec1Reps.toNat ≤ 99 ∧
    1 ≤ c.sec2Reps.toNat ∧ c.sec2Reps.toNat ≤ 99

/-- A stored gate configuration holds legal values (R29, R75). -/
def GateCfg.Legal (c : GateCfg) : Prop := c.seq.Legal ∧ c.fillStart.toNat ≤ 32

/-- Every stored configuration is legal. -/
def State.CfgLegal (s : State) : Prop :=
  (∀ i, (s.cvEngine i).cfg.Legal) ∧ ∀ t, (s.gtTrack t).cfg.Legal

/-- Every play-head lies in `[0, length - 1]` (R34). -/
def State.StepInRange (s : State) : Prop :=
  (∀ i, (s.cvEngine i).rt.pos ≤ (s.cvEngine i).cfg.L - 1) ∧
    ∀ t, (s.gtTrack t).rt.pos ≤ (s.gtTrack t).cfg.seq.L - 1

/-- The counter of the section that is not active is 0 (R35). -/
def Runtime.CountersExclusive (r : Runtime) : Prop :=
  (r.s2 = true → r.c1 = 0) ∧ (r.s2 = false → r.c2 = 0)

/-- R35 for every engine. -/
def State.CountersExclusive (s : State) : Prop :=
  (∀ i, (s.cvEngine i).rt.CountersExclusive) ∧ ∀ t, (s.gtTrack t).rt.CountersExclusive

/-- Every step table is in canonical form: 96 elements for a CV engine, 32 for a gate track (R50). -/
def State.TablesCanonical (s : State) : Prop :=
  (∀ i, Memory.wf Config.unlistedCv 96 (s.cvEngine i).pat = true) ∧
    ∀ t, Memory.wf Config.unlistedGate 32 (s.gtTrack t).pat = true

/-- No trigger counter is above PULSE_SAMPLES (R26). -/
def State.TriggersBounded (s : State) : Prop :=
  ∀ t, (s.gtTrack t).tc.toNat ≤ Config.pulseSamples.toNat

/-- No operation has been refused: the end of such a run is a normal end (60_exceptions.md R221). -/
def State.Unmarked (s : State) : Prop := s.refused = none

/-- A run of `k` steps that ends with no refusal. -/
def SafeRun (k : Nat) (s : State) : Prop :=
  ∃ t, Host.Core.run Sys2Proof.core k s = .next t ∧ State.Unmarked t

end Sys2Proof.Machine
end

