-- ==== Sys2Proof/Certificates/Slice0/Obligations.lean ====
section
/-!
DEFINITION. The statements for the provers, and the few definitions they are written with. Each
docstring names the rule of spec/ the statement follows. Statements about the runtime registers spell
the rules out over natural numbers, independently of the model's own definitions of them.
-/

open Sys2Proof Sys2Proof.Machine

namespace Sys2Proof.Claims

/-- The outcome of a step or of an operation. -/
abbrev Out := Host.Outcome State Fault Refusal

/-- The block's own state other than the refusal mark is the same: the edge memory, the engines and
the tables (10_state.md R20). -/
def SameBlock (s t : State) : Prop :=
  t.prevClk = s.prevClk ∧ t.prevRst = s.prevRst ∧ t.cv = s.cv ∧ t.gt = s.gt

/-- The host's side of the state and the mark are the same. -/
def SameInterface (s t : State) : Prop := t.refused = s.refused ∧ t.pending = s.pending

/-- `s` after CV engine `i` got the runtime registers `rt` and nothing else of the block changed. -/
def afterCv (s : State) (i : Fin 3) (rt : Runtime) : State :=
  (s.setCv i { s.cvEngine i with rt := rt }).setResult none

/-- `s` after gate track `t` got the runtime registers `rt` by an advance: the trigger counter is
PULSE_SAMPLES where the slot at the new step is not Off, and unchanged where it is (R166). -/
def afterGt (s : State) (t : Fin 6) (rt : Runtime) : State :=
  (s.setGt t
    { s.gtTrack t with
      rt := rt
      tc := if gtRead (s.gtTrack t).pat rt.step = .off then (s.gtTrack t).tc
        else Config.pulseSamples }).setResult none

/-- Sections are enabled (R121), over natural numbers. -/
def Sectioned (c : SeqCfg) : Prop := 0 < c.splitPoint.toNat ∧ c.splitPoint.toNat < c.length.toNat

/-- A play-head value. -/
abbrev at5 (n : Nat) : Slot := BitVec.ofNat 5 n

/-- A section counter plus one, modulo 2^32 (R24). -/
def plusOne (c : U32) : Nat := (c.toNat + 1) % 2 ^ 32

/-- The same operation `k` times. -/
def execTimes (op : Instr) : Nat → State → Out
  | 0, s => .next s
  | k + 1, s =>
    match exec op s with
    | .next t => execTimes op k t
    | .fault r => .fault r
    | .refused r => .refused r

/-- The effects of a list of operations, one after the other. -/
def execAll : List Instr → State → Out
  | [], s => .next s
  | op :: ops, s =>
    match exec op s with
    | .next t => execAll ops t
    | .fault r => .fault r
    | .refused r => .refused r

/-- `op` evaluates the clock signal at the sample `v` (R103, R201). -/
def EvaluatesClk (op : Instr) (v : Sample) : Prop := op = .edgeClk v ∨ ∃ r n, op = .tick v r n

/-- `op` evaluates the reset signal at the sample `v` (R104, R201). -/
def EvaluatesRst (op : Instr) (v : Sample) : Prop := op = .edgeRst v ∨ ∃ c n, op = .tick c v n

/-- From `s` to `t` a cycle of `n` samples delivered the clock edge iff `ce` and the reset edge iff `re`
to every engine, and nothing else moved the engines (R200, R204). -/
def Delivered (ce re : Bool) (n : U32) (s t : State) : Prop :=
  (∀ i, t.cvEngine i =
    dispatchCv Config.coincidentOrder Config.backwardSections ce re (s.cvEngine i)) ∧
  ∀ k, t.gtTrack k = dispatchGt Config.coincidentOrder Config.backwardSections Config.pulseSamples
    ce re (gateDecay n (s.gtTrack k))

/-- What a pulse of two cycles of `n` samples leaves when its first cycle moves the engines by `f` and
`g` and its second by nothing: both signals low, every trigger counter decayed before `g` and after. -/
def PulseLeaves (n : U32) (s t : State) (f : CvEngine → CvEngine) (g : GateTrack → GateTrack) :
    Prop :=
  t.prevClk = sampleZero ∧ t.prevRst = sampleZero ∧ SameInterface s t ∧
    (∀ i, t.cvEngine i = f (s.cvEngine i)) ∧
    ∀ k, t.gtTrack k = gateDecay n (g (gateDecay n (s.gtTrack k)))

/-- The value of a binary32 number that is not a NaN, as IEEE-754 gives it: sign, exponent field `e`
and fraction field `f` stand for `f * 2^-149` when `e = 0` and for `(2^23 + f) * 2^(e-150)` otherwise.
For the infinities (`e = 255`, `f = 0`) the same formula gives plus or minus `2^128`, which is above or
below every finite value, so the order is that of the extended numbers. -/
def binary32Value (v : Sample) : Rat :=
  let f := v.toNat % 2 ^ 23
  let e := v.toNat / 2 ^ 23 % 2 ^ 8
  let m : Nat := if e = 0 then f else (2 ^ 23 + f) * 2 ^ (e - 1)
  (if v.toNat / 2 ^ 31 = 1 then -(m : Rat) else (m : Rat)) / 2 ^ 149

/-- A NaN: exponent field all ones and fraction field not zero. -/
def IsNaN (v : Sample) : Prop := v.toNat / 2 ^ 23 % 2 ^ 8 = 255 ∧ v.toNat % 2 ^ 23 ≠ 0

/-- The first refusal reason that applies to a word and its operands, in the check order of
30_encoding.md R79, read off the number the word is: `ReservedBits` (a reserved bit, or a field the
operation code does not use, by the columns of R78), `BadInstance`, `BadSelect`, and the operand
checks (R76, R77). -/
def firstReason (w : OpWord) (x : Operands) : Option Reason :=
  let op := w.toNat / 4096
  let inst := w.toNat / 512 % 8
  let step := w.toNat / 16 % 32
  let sel := w.toNat / 4 % 4
  if w.toNat % 4 ≠ 0 ∨ (op < 2 ∧ inst ≠ 0) ∨ (op ∉ [6, 7, 13, 15] ∧ step ≠ 0) ∨
      (op ∉ [1, 6, 7] ∧ sel ≠ 0) then some .reservedBits
  else if (2 ≤ op ∧ op ≤ 7 ∧ 2 < inst) ∨ (8 ≤ op ∧ 5 < inst) then some .badInstance
  else if (op = 1 ∧ 1 < sel) ∨ (op ∈ [6, 7] ∧ 2 < sel) then some .badSelect
  else if (op = 2 ∨ op = 8) ∧ x.cfg.toNat / 64 % 4 = 3 then some .badDirection
  else if op = 15 ∧ 2 < x.code.toNat then some .badTriState
  else none

/-- The five shared fields stored for a configuration word, as R75 clamps them. -/
def StoresSeq (w : CfgWord) (c : SeqCfg) : Prop :=
  c.length.toNat = min (max (w.toNat % 64) 1) 32 ∧
    (directionCode c.direction).toNat = w.toNat / 64 % 4 ∧
    c.splitPoint.toNat = w.toNat / 2 ^ 8 % 32 ∧
    c.sec1Reps.toNat = min (max (w.toNat / 2 ^ 13 % 128) 1) 99 ∧
    c.sec2Reps.toNat = min (max (w.toNat / 2 ^ 20 % 128) 1) 99

/-- All seven fields stored for a gate configuration word. -/
def StoresGate (w : CfgWord) (c : GateCfg) : Prop :=
  StoresSeq w c.seq ∧ c.fillStart.toNat = min (w.toNat / 2 ^ 27 % 64) 32 ∧
    (c.running = true ↔ w.toNat / 2 ^ 33 % 2 = 1)

/-- CLAMP (R122): the step is the old one or the last step, whichever is lower, and no other runtime
register changes. -/
def Clamped (c : SeqCfg) (r r' : Runtime) : Prop :=
  r'.step.toNat = min r.step.toNat (c.length.toNat - 1) ∧ r'.pf = r.pf ∧ r'.c1 = r.c1 ∧
    r'.c2 = r.c2 ∧ r'.s2 = r.s2

/-- The state RESET_ENGINE leaves (R130), over natural numbers. -/
def startOf (c : SeqCfg) : Runtime :=
  { step := if c.direction = .backward then at5 (c.length.toNat - 1) else 0
    pf := true, c1 := 0, c2 := 0, s2 := false }

/-- The bounds of R36 on the counters of one engine. -/
def CounterBounds (c : SeqCfg) (r : Runtime) : Prop :=
  (r.s2 = false → r.c1.toNat < c.sec1Reps.toNat) ∧ (r.s2 = true → r.c2.toNat < c.sec2Reps.toNat)

end Sys2Proof.Claims

open Sys2Proof.Claims

/-! ### Encoding and decoding -/

/-- Every operation, with every operand at every value, is read back from its own word and operands
(30_encoding.md R70, R72, R78). -/
def Obligations.DecodeReadsBackEveryEncodedOperation : Prop :=
  ∀ op : Instr, decode (encode op).word (encode op).operands = .ok op

/-- A word that decodes is the word of the operation it decodes to, so no two words name one operation
(R78, R79), and the lanes the operation does not use are not read (R72). -/
def Obligations.DecodedWordIsTheEncodersWord : Prop :=
  ∀ (w : OpWord) (x : Operands) (op : Instr), decode w x = .ok op →
    encodeWord op = w ∧ decode w (encodeOperands op) = .ok op

/-- A word that decodes matches the row of its operation in the opcode table and no other row (R78,
spec/opcode_table.json). -/
def Obligations.DecodedWordMatchesExactlyItsTableRow : Prop :=
  ∀ (w : OpWord) (x : Operands) (op : Instr), decode w x = .ok op →
    ∃ r ∈ opcodeTable, r.matchesWord w = true ∧ r.mnemonic = op.mnemonic ∧
      ∀ r' ∈ opcodeTable, r'.matchesWord w = true → r' = r

/-- The worked encodings of R83: the encoder gives each word, the decoder reads it back at arbitrary
operands, and the assembler gives each configuration word. -/
def Obligations.WorkedEncodingsDecode : Prop :=
  (encodeWord (.cvRdval 2 31 2) = 0x65F8 ∧ (∀ cfg, encodeWord (.cvCfg 1 cfg) = 0x2200) ∧
    (∀ v, encodeWord (.gtWrstate 5 7 v) = 0xFA70) ∧ encodeWord (.gtRdstate 3 9) = 0xD690 ∧
    ∀ v, encodeWord (.edgeRst v) = 0x1004) ∧
  (∀ x : Operands, decode 0x65F8 x = .ok (.cvRdval 2 31 2) ∧
    decode 0x2200 x = .ok (.cvCfg 1 x.cfg) ∧ decode 0xFA70 x = .ok (.gtWrstate 5 7 x.code) ∧
    decode 0xD690 x = .ok (.gtRdstate 3 9) ∧ decode 0x1004 x = .ok (.edgeRst x.sample)) ∧
    assembleCfg { len := 8, split := 4, r1 := 3, r2 := 1, run := false } = 0x0000000000106408 ∧
    assembleCfg { len := 16, split := 8, r1 := 2, r2 := 1, fill := 6, run := true }
      = 0x0000000230104810

/-! ### The step -/

/-- When the operation the host has issued next decodes, the step is the operation's effect on the
state with that operation taken (00_scope.md R13, 20_memory.md R59). -/
def Obligations.StepRunsTheDecodedOperation : Prop :=
  ∀ (s : State) (o : Operation) (rest : List Operation) (op : Instr), s.refused = none →
    s.pending = o :: rest → decode o.word o.operands = .ok op →
    step s = exec op (s.setPending rest)

/-- Nothing steps but the host's operations (60_exceptions.md R229): while none is issued the state
does not change. -/
def Obligations.StepWithoutAnOperationChangesNothing : Prop :=
  ∀ s : State, s.refused = none → s.pending = [] → step s = .next s

/-- Refusals (60_exceptions.md R221, R222, 30_encoding.md R79): in an unmarked state the first reason of
the check order decides. Where one applies, the mark is set, records the word and that reason, and no
other state of the block changes; where none applies, the word decodes to one operation, whose effect
is the step, and the mark stays clear. A marked machine takes no step. -/
def Obligations.RefusalsFollowTheCheckOrder : Prop :=
  (∀ (s : State) (o : Operation) (rest : List Operation), s.refused = none →
    s.pending = o :: rest →
    (∀ r, firstReason o.word o.operands = some r →
      ∃ t, step s = .next t ∧ t.refused = some ⟨o.word, r⟩ ∧ SameBlock s t) ∧
    (firstReason o.word o.operands = none →
      ∃ op t, decode o.word o.operands = .ok op ∧ encodeWord op = o.word ∧
        step s = exec op (s.setPending rest) ∧ step s = .next t ∧ t.refused = none)) ∧
  ∀ (s : State) (m : RefusalMark), s.refused = some m →
    step s = .refused (.markedRefused m.word m.reason)

/-- An operation sets the mark exactly when it fails its operand check (R79 step 4), and then changes
nothing else of the block (R221). -/
def Obligations.OperandChecksDecideTheMark : Prop :=
  ∀ (op : Instr) (s : State), s.refused = none → ∃ t, exec op s = .next t ∧
    (t.refused = none ↔ op.WellFormed = true) ∧ (op.WellFormed = false → SameBlock s t)

/-- No operation faults and none is left without a next state (60_exceptions.md R220). -/
def Obligations.EveryOperationHasANextState : Prop :=
  ∀ (op : Instr) (s : State), ∃ t, exec op s = .next t

/-- Operations take effect one at a time, in the order the host issues them (20_memory.md R59): a
machine that was issued a list of operations runs exactly their effects, one after the other. -/
def Obligations.IssuedOperationsRunInOrder : Prop :=
  ∀ (ops : List Instr) (s : State), (∀ op ∈ ops, op.WellFormed = true) → s.refused = none →
    s.pending = [] →
    Host.Core.run Sys2Proof.core ops.length (s.setPending (ops.map encode)) = execAll ops s ∧
      SafeRun ops.length (s.setPending (ops.map encode))

/-! ### Power-on -/

/-- POWER_ON for every legal POWERON_CONFIG and every POWERON_PATTERN (70_reset_and_hazards.md R240,
10_state.md R37). -/
def Obligations.PowerOnLeavesTheStartState : Prop :=
  ∀ (cc : Fin 3 → SeqCfg) (gc : Fin 6 → GateCfg) (cp : Fin 3 → Memory CvValue)
    (gp : Fin 6 → Memory TriState), (∀ i, (cc i).Legal) → (∀ t, (gc t).Legal) →
    let s := State.powerOn cc gc cp gp
    s.prevClk = 0 ∧ s.prevRst = 0 ∧
      (∀ i, s.cvEngine i = { cfg := cc i, rt := startOf (cc i), pat := cp i } ∧
        cvReset (s.cvEngine i) = s.cvEngine i) ∧
      (∀ t, s.gtTrack t = { cfg := gc t, rt := startOf (gc t).seq, tc := 0, pat := gp t } ∧
        gateReset (s.gtTrack t) = s.gtTrack t) ∧
      s.refused = none ∧ step s = .next s

/-- The reset state is POWER_ON at the model's own choice of the OPEN parameters: `cfg(len=1, run=0)`
on every engine, every CV element 0 and every gate slot Off (DESIGN CHOICE, log 4), with nothing on
the result bus (DESIGN CHOICE, log 6). The edge memory and the runtime registers are those POWER_ON
leaves (R240). -/
def Obligations.ResetStateTakesTheLoggedChoices : Prop :=
  (∀ i, (State.reset.cvEngine i).cfg =
      { length := 1, direction := .forward, splitPoint := 0, sec1Reps := 1, sec2Reps := 1 } ∧
    (State.reset.cvEngine i).rt = ⟨0, true, 0, 0, false⟩ ∧
    ∀ slot o, cvRead (State.reset.cvEngine i).pat slot o = 0) ∧
  (∀ t, (State.reset.gtTrack t).cfg =
      { seq := { length := 1, direction := .forward, splitPoint := 0, sec1Reps := 1, sec2Reps := 1 }
        fillStart := 0, running := false } ∧
    (State.reset.gtTrack t).rt = ⟨0, true, 0, 0, false⟩ ∧ (State.reset.gtTrack t).tc = 0 ∧
    ∀ slot, gtRead (State.reset.gtTrack t).pat slot = .off) ∧
  State.reset.prevClk = 0 ∧ State.reset.prevRst = 0 ∧ State.reset.refused = none ∧
  State.reset.result = none ∧ State.reset.pending = []

/-! ### Invariants -/

/-- Every step keeps every configuration legal and every play-head in range (10_state.md R34, R28,
R29). -/
def Obligations.StepKeepsPlayHeadsInRange : Prop :=
  ∀ s t : State, s.CfgLegal → s.StepInRange → step s = .next t → t.CfgLegal ∧ t.StepInRange

/-- Every step keeps the counter of the inactive section at 0 (10_state.md R35). -/
def Obligations.StepKeepsInactiveCountersZero : Prop :=
  ∀ s t : State, s.CountersExclusive → step s = .next t → t.CountersExclusive

/-- Every step keeps all nine step tables in canonical form (20_memory.md R50 to R52, log 3). -/
def Obligations.StepKeepsTablesCanonical : Prop :=
  ∀ s t : State, s.TablesCanonical → step s = .next t → t.TablesCanonical

/-- Every step keeps every trigger counter at or below PULSE_SAMPLES: it is only loaded with that value
and counted down (10_state.md R26, 42_gate_engine.md R166, R168). -/
def Obligations.StepKeepsTriggersBounded : Prop :=
  ∀ s t : State, s.TriggersBounded → step s = .next t → t.TriggersBounded

/-- Power-on with legal configurations and canonical patterns meets every invariant, and so does the
reset state. -/
def Obligations.PowerOnMeetsTheInvariants : Prop :=
  (∀ (cc : Fin 3 → SeqCfg) (gc : Fin 6 → GateCfg) (cp : Fin 3 → Memory CvValue)
    (gp : Fin 6 → Memory TriState), (∀ i, (cc i).Legal) → (∀ t, (gc t).Legal) →
    (∀ i, Memory.wf Config.unlistedCv 96 (cp i) = true) →
    (∀ t, Memory.wf Config.unlistedGate 32 (gp t) = true) →
    let s := State.powerOn cc gc cp gp
    s.CfgLegal ∧ s.StepInRange ∧ s.CountersExclusive ∧ s.TablesCanonical ∧ s.TriggersBounded) ∧
  (State.reset.CfgLegal ∧ State.reset.StepInRange ∧ State.reset.CountersExclusive ∧
    State.reset.TablesCanonical ∧ State.reset.TriggersBounded)

/-- While an engine's configuration stays unchanged and sections are enabled, its counters stay below
the repeat counts (10_state.md R36). -/
def Obligations.CountersStayBelowRepeatCounts : Prop :=
  ∀ (op : Instr) (s t : State), exec op s = .next t →
    (∀ i, (t.cvEngine i).cfg = (s.cvEngine i).cfg → (s.cvEngine i).cfg.Legal →
      Sectioned (s.cvEngine i).cfg → (s.cvEngine i).rt.CountersExclusive →
      CounterBounds (s.cvEngine i).cfg (s.cvEngine i).rt →
      CounterBounds (t.cvEngine i).cfg (t.cvEngine i).rt) ∧
    ∀ k, (t.gtTrack k).cfg = (s.gtTrack k).cfg → (s.gtTrack k).cfg.Legal →
      Sectioned (s.gtTrack k).cfg.seq → (s.gtTrack k).rt.CountersExclusive →
      CounterBounds (s.gtTrack k).cfg.seq (s.gtTrack k).rt →
      CounterBounds (t.gtTrack k).cfg.seq (t.gtTrack k).rt

/-! ### The Edge Detector -/

/-- The binary32 comparisons are ordered comparisons of the values, false when an operand is a NaN
(00_scope.md R10), and the threshold is 0.5 (40_edge_detector.md R100). -/
def Obligations.SampleComparisonsOrderTheValues : Prop :=
  (∀ a b : Sample, ¬ IsNaN a → ¬ IsNaN b →
    (f32Le a b = true ↔ binary32Value a ≤ binary32Value b) ∧
    (f32Gt a b = true ↔ binary32Value b < binary32Value a)) ∧
  (∀ a b : Sample, IsNaN a ∨ IsNaN b → f32Le a b = false ∧ f32Gt a b = false) ∧
  binary32Value Config.edgeThreshold = 1 / 2 ∧ ¬ IsNaN Config.edgeThreshold

/-- A sample is high iff it is above 0.5 and low-or-equal iff it is at most 0.5; a NaN is neither, and
an edge needs a low-or-equal sample before and a high one now (R100, R101). -/
def Obligations.RisingEdgeCrossesTheThreshold : Prop :=
  (∀ v : Sample, (sampleHigh v = true ↔ ¬ IsNaN v ∧ 1 / 2 < binary32Value v) ∧
    (sampleLow v = true ↔ ¬ IsNaN v ∧ binary32Value v ≤ 1 / 2)) ∧
  ∀ prev cur : Sample, rising prev cur = true ↔
    (¬ IsNaN prev ∧ binary32Value prev ≤ 1 / 2) ∧ ¬ IsNaN cur ∧ 1 / 2 < binary32Value cur

/-- `edge.clk` and `edge.rst` evaluate one signal: the result is the rising edge between its memory and
the sample, the sample is stored unconditionally, and nothing else of the block changes (R101, R102). -/
def Obligations.EdgeOperationsEvaluateOneSignal : Prop :=
  ∀ (v : Sample) (s : State),
    exec (.edgeClk v) s = .next ((s.setPrevClk v).setResult
      (some (.bool (sampleLow s.prevClk && sampleHigh v)))) ∧
    exec (.edgeRst v) s = .next ((s.setPrevRst v).setResult
      (some (.bool (sampleLow s.prevRst && sampleHigh v))))

/-- Two edges on one signal need a sample at or below the threshold between them, and a NaN memory
gives no edge (40_edge_detector.md R103, R105, R106). `op` is an evaluation of the signal, by `tick` or
by an edge operation, that stored a sample `v` which is not low-or-equal, `mid` are any operations that
do not evaluate it, and its next evaluation, again by `tick` or by an edge operation, is no edge: the
edge operation answers false, and the tick delivers no edge of that signal to any engine. A sample that
makes an edge is such a `v`. -/
def Obligations.NoEdgeWithoutALowSampleBetween : Prop :=
  (∀ prev v : Sample, rising prev v = true → sampleLow v = false) ∧
  ∀ (op : Instr) (mid : List Instr) (v w : Sample) (s t u : State), sampleLow v = false →
    exec op s = .next t → execAll mid t = .next u →
    (EvaluatesClk op v → (∀ m ∈ mid, ∀ x, ¬ EvaluatesClk m x) → u.prevClk = v ∧
      (∃ z, exec (.edgeClk w) u = .next z ∧ z.result = some (.bool false)) ∧
      ∀ r n, ∃ z, exec (.tick w r n) u = .next z ∧ Delivered false (rising u.prevRst r) n u z) ∧
    (EvaluatesRst op v → (∀ m ∈ mid, ∀ x, ¬ EvaluatesRst m x) → u.prevRst = v ∧
      (∃ z, exec (.edgeRst w) u = .next z ∧ z.result = some (.bool false)) ∧
      ∀ c n, ∃ z, exec (.tick c w n) u = .next z ∧ Delivered (rising u.prevClk c) false n u z)

/-- The pseudo-operations (30_encoding.md R82): `idle` makes no edge whatever the previous samples
were; the first `tick` of a `clk.pulse` makes a clock edge, that of an `rst.pulse` a reset edge and
that of a `both.pulse` both, each exactly when the sample of its signal before it was at or below the
threshold; their second `tick` makes none. Where a `both.pulse` makes both edges, `dispatchCv` and
`dispatchGt` say how they are ordered (43_dispatcher.md R204); this statement does not. -/
def Obligations.IdleIsNoEdgeAndPulseIsOne : Prop :=
  ∀ (n : U32) (s : State),
    (∃ t, execAll (idle n) s = .next t ∧ t.prevClk = sampleZero ∧ t.prevRst = sampleZero ∧
      SameInterface s t ∧ (∀ i, t.cvEngine i = s.cvEngine i) ∧
      ∀ k, t.gtTrack k = gateDecay n (s.gtTrack k)) ∧
    (∃ t, execAll (clkPulse n) s = .next t ∧ PulseLeaves n s t
      (fun e => if sampleLow s.prevClk then cvAdvance Config.backwardSections e else e)
      (fun g => if sampleLow s.prevClk then
        gateAdvance Config.backwardSections Config.pulseSamples g else g)) ∧
    (∃ t, execAll (rstPulse n) s = .next t ∧ PulseLeaves n s t
      (fun e => if sampleLow s.prevRst then cvReset e else e)
      (fun g => if sampleLow s.prevRst then gateReset g else g)) ∧
    ∃ t, execAll (bothPulse n) s = .next t ∧ PulseLeaves n s t
      (dispatchCv Config.coincidentOrder Config.backwardSections (sampleLow s.prevClk)
        (sampleLow s.prevRst))
      (dispatchGt Config.coincidentOrder Config.backwardSections Config.pulseSamples
        (sampleLow s.prevClk) (sampleLow s.prevRst))

/-! ### The step-advance automaton -/

/-- FWD_NOSEC (41_cv_engine.md R123): Forward increments and wraps to 0 at `length`. -/
def Obligations.ForwardWithoutSectionsWrapsAtLength : Prop :=
  ∀ s : State,
    (∀ i, let e := s.cvEngine i
      e.cfg.direction = .forward → ¬ Sectioned e.cfg →
      exec (.cvAdv i) s = .next (afterCv s i { e.rt with
        step := if e.cfg.length.toNat ≤ e.rt.step.toNat + 1 then 0
          else at5 (e.rt.step.toNat + 1) })) ∧
    ∀ k, let g := s.gtTrack k
      g.cfg.running = true → g.cfg.seq.direction = .forward → ¬ Sectioned g.cfg.seq →
      exec (.gtAdv k) s = .next (afterGt s k { g.rt with
        step := if g.cfg.seq.length.toNat ≤ g.rt.step.toNat + 1 then 0
          else at5 (g.rt.step.toNat + 1) })

/-- BWD_NOSEC (41_cv_engine.md R124): Backward decrements and wraps to `length - 1` below 0. -/
def Obligations.BackwardWithoutSectionsWrapsBelowZero : Prop :=
  ∀ s : State,
    (∀ i, let e := s.cvEngine i
      e.cfg.Legal → e.cfg.direction = .backward → ¬ Sectioned e.cfg →
      exec (.cvAdv i) s = .next (afterCv s i { e.rt with
        step := if e.rt.step.toNat = 0 then at5 (e.cfg.length.toNat - 1)
          else at5 (e.rt.step.toNat - 1) })) ∧
    ∀ k, let g := s.gtTrack k
      g.cfg.Legal → g.cfg.running = true → g.cfg.seq.direction = .backward →
      ¬ Sectioned g.cfg.seq →
      exec (.gtAdv k) s = .next (afterGt s k { g.rt with
        step := if g.rt.step.toNat = 0 then at5 (g.cfg.seq.length.toNat - 1)
          else at5 (g.rt.step.toNat - 1) })

/-- PP_CV (41_cv_engine.md R125): the CV pingpong turns without skipping a step and ignores sections. -/
def Obligations.CvPingpongTurnsWithoutSkipping : Prop :=
  ∀ (s : State) (i : Fin 3), let e := s.cvEngine i
    e.cfg.Legal → e.cfg.direction = .pingpong →
    exec (.cvAdv i) s = .next (afterCv s i
      (if e.rt.pf then
        if e.cfg.length.toNat ≤ e.rt.step.toNat + 1 then
          { e.rt with step := at5 (e.cfg.length.toNat - 1), pf := false }
        else { e.rt with step := at5 (e.rt.step.toNat + 1) }
      else
        if e.rt.step.toNat = 0 then { e.rt with step := 0, pf := true }
        else { e.rt with step := at5 (e.rt.step.toNat - 1) }))

/-- PP_GATE (42_gate_engine.md R161): the gate pingpong skips a step at each turnaround and ignores
sections. -/
def Obligations.GatePingpongSkipsAtTheTurn : Prop :=
  ∀ (s : State) (k : Fin 6), let g := s.gtTrack k
    g.cfg.Legal → g.cfg.running = true → g.cfg.seq.direction = .pingpong →
    exec (.gtAdv k) s = .next (afterGt s k
      (if g.rt.pf then
        if g.cfg.seq.length.toNat ≤ g.rt.step.toNat + 1 then
          { g.rt with step := at5 (g.cfg.seq.length.toNat - 2), pf := false }
        else { g.rt with step := at5 (g.rt.step.toNat + 1) }
      else
        if g.rt.step.toNat = 0 then
          { g.rt with step := at5 (min 1 (g.cfg.seq.length.toNat - 1)), pf := true }
        else { g.rt with step := at5 (g.rt.step.toNat - 1) }))

/-- The runtime registers after FWD_SEC (R126), over natural numbers. -/
def Sys2Proof.Claims.forwardSectioned (c : SeqCfg) (r : Runtime) : Runtime :=
  if r.s2 = false then
    if c.splitPoint.toNat ≤ r.step.toNat + 1 then
      if plusOne r.c1 = c.sec1Reps.toNat then
        { r with c1 := 0, s2 := true, step := c.splitPoint }
      else { r with c1 := r.c1 + 1, step := 0 }
    else { r with step := at5 (r.step.toNat + 1) }
  else
    if c.length.toNat ≤ r.step.toNat + 1 then
      if plusOne r.c2 = c.sec2Reps.toNat then
        { r with c2 := 0, c1 := 0, s2 := false, step := 0 }
      else { r with c2 := r.c2 + 1, step := c.splitPoint }
    else { r with step := at5 (r.step.toNat + 1) }

/-- The fill-override comparator of R162, over natural numbers: the step after the increment has
reached `fillStart` on the final repetition of section 1. -/
def Sys2Proof.Claims.FillFires (c : GateCfg) (r : Runtime) : Prop :=
  c.seq.direction = .forward ∧ r.s2 = false ∧ Sectioned c.seq ∧ 0 < c.fillStart.toNat ∧
    c.fillStart.toNat < c.seq.splitPoint.toNat ∧ 1 < c.seq.sec1Reps.toNat ∧
    r.c1.toNat + 1 = c.seq.sec1Reps.toNat ∧ c.fillStart.toNat ≤ r.step.toNat + 1

/-- FWD_SEC (41_cv_engine.md R126), on a CV engine; on a gate track it is the branch without a fill
of the next statement. -/
def Obligations.ForwardWithSectionsRepeatsAndSwitches : Prop :=
  ∀ (s : State) (i : Fin 3), let e := s.cvEngine i
    e.cfg.direction = .forward → Sectioned e.cfg →
    exec (.cvAdv i) s = .next (afterCv s i (forwardSectioned e.cfg e.rt))

/-- FWD_SEC_GATE (42_gate_engine.md R162, R163): on a running Forward track with sections enabled, the
fill is tested first. Where it fires, section 1 is aborted and the play-head jumps to the split point;
where it does not, the generic rule (R126) applies, and only one of the two runs. -/
def Obligations.FillJumpsToTheSplitPoint : Prop :=
  ∀ (s : State) (k : Fin 6), let g := s.gtTrack k
    g.cfg.running = true → g.cfg.seq.direction = .forward → Sectioned g.cfg.seq →
    (FillFires g.cfg g.rt →
      exec (.gtAdv k) s = .next (afterGt s k
        { g.rt with c1 := 0, s2 := true, step := g.cfg.seq.splitPoint })) ∧
    (¬ FillFires g.cfg g.rt →
      exec (.gtAdv k) s = .next (afterGt s k (forwardSectioned g.cfg.seq g.rt)))

/-- BWD_SEC_CM (41_cv_engine.md R127), on a CV engine and on a gate track: the S1-state plays from
`length - 1` down to `splitPoint`, the S2-state from `splitPoint - 1` down to 0, with no fill (R160).
That the advance takes this rule and not R128 (R129, R164) is BACKWARD_SECTIONS at CODE_MIRROR (decision
D19), a DESIGN CHOICE of the spec that the model follows (log 10), so this statement is about a machine
with that value. -/
def Obligations.BackwardWithSectionsMirrorsForward : Prop :=
  let next := fun (c : SeqCfg) (r : Runtime) =>
    if r.s2 = false then
      if r.step.toNat ≤ c.splitPoint.toNat then
        if plusOne r.c1 = c.sec1Reps.toNat then
          { r with c1 := 0, s2 := true, step := at5 (c.splitPoint.toNat - 1) }
        else { r with c1 := r.c1 + 1, step := at5 (c.length.toNat - 1) }
      else { r with step := at5 (r.step.toNat - 1) }
    else
      if r.step.toNat = 0 then
        if plusOne r.c2 = c.sec2Reps.toNat then
          { r with c2 := 0, c1 := 0, s2 := false, step := at5 (c.length.toNat - 1) }
        else { r with c2 := r.c2 + 1, step := at5 (c.splitPoint.toNat - 1) }
      else { r with step := at5 (r.step.toNat - 1) }
  ∀ s : State,
    (∀ i, let e := s.cvEngine i
      e.cfg.direction = .backward → Sectioned e.cfg →
      exec (.cvAdv i) s = .next (afterCv s i (next e.cfg e.rt))) ∧
    ∀ k, let g := s.gtTrack k
      g.cfg.running = true → g.cfg.seq.direction = .backward → Sectioned g.cfg.seq →
      exec (.gtAdv k) s = .next (afterGt s k (next g.cfg.seq g.rt))

/-- BWD_SEC_RM (41_cv_engine.md R128), the rule of the parameter value RANGE_MIRROR: the sections keep
their ranges. It is the advance of both engine kinds under that value (R129, R164). -/
def Obligations.RangeMirrorKeepsTheSectionRanges : Prop :=
  let next := fun (c : SeqCfg) (r : Runtime) =>
    if r.s2 = false then
      if r.step.toNat = 0 then
        if plusOne r.c1 = c.sec1Reps.toNat then
          { r with c1 := 0, s2 := true, step := at5 (c.length.toNat - 1) }
        else { r with c1 := r.c1 + 1, step := at5 (c.splitPoint.toNat - 1) }
      else { r with step := at5 (r.step.toNat - 1) }
    else
      if r.step.toNat ≤ c.splitPoint.toNat then
        if plusOne r.c2 = c.sec2Reps.toNat then
          { r with c2 := 0, c1 := 0, s2 := false, step := at5 (c.splitPoint.toNat - 1) }
        else { r with c2 := r.c2 + 1, step := at5 (c.length.toNat - 1) }
      else { r with step := at5 (r.step.toNat - 1) }
  ∀ (c : GateCfg) (r : Runtime), c.seq.direction = .backward → Sectioned c.seq →
    advanceCv .rangeMirror c.seq r = next c.seq r ∧ advanceGate .rangeMirror c r = next c.seq r

/-- RESET_ENGINE (41_cv_engine.md R130): `cv.rst`, and `gt.rst` on a running track, set the start state
of the current direction and write nothing else of the block. -/
def Obligations.ResetReturnsToTheStartPosition : Prop :=
  ∀ s : State,
    (∀ i, let e := s.cvEngine i
      e.cfg.Legal → exec (.cvRst i) s = .next (afterCv s i (startOf e.cfg))) ∧
    ∀ k, let g := s.gtTrack k
      g.cfg.Legal → g.cfg.running = true →
      exec (.gtRst k) s = .next
        ((s.setGt k { g with rt := startOf g.cfg.seq }).setResult none)

/-- Reset idempotence (70_reset_and_hazards.md R242): from any state a reset yields the start state of
the configuration, whatever the runtime registers held, and two resets in a row give the same state as
one. -/
def Obligations.ResetIsIdempotentFromAnyState : Prop :=
  (∀ (s t : State) (i : Fin 3), exec (.cvRst i) s = .next t →
    exec (.cvRst i) t = .next t ∧
      ((s.cvEngine i).cfg.Legal → (t.cvEngine i).rt = startOf (s.cvEngine i).cfg)) ∧
  ∀ (s t : State) (k : Fin 6), exec (.gtRst k) s = .next t →
    exec (.gtRst k) t = .next t ∧
      ((s.gtTrack k).cfg.Legal → (s.gtTrack k).cfg.running = true →
        (t.gtTrack k).rt = startOf (s.gtTrack k).cfg.seq)

/-- The `running` flag (42_gate_engine.md R165): on a stopped track an advance and a reset change
nothing and the edges of a tick are dropped, while the decay and the clamp still apply. -/
def Obligations.StoppedTrackIgnoresAdvanceAndReset : Prop :=
  ∀ (s : State) (k : Fin 6), (s.gtTrack k).cfg.running = false →
    exec (.gtAdv k) s = .next (s.setResult none) ∧
    exec (.gtRst k) s = .next (s.setResult none) ∧
    (∀ clk rst n, ∃ t, exec (.tick clk rst n) s = .next t ∧
      t.gtTrack k = gateDecay n (s.gtTrack k)) ∧
    (∀ n, ∃ t, exec (.gtDecay k n) s = .next t ∧ t.gtTrack k = gateDecay n (s.gtTrack k)) ∧
    ∀ w, w.toNat / 64 % 4 ≠ 3 → ∃ t, exec (.gtCfg k w) s = .next t ∧
      Clamped (t.gtTrack k).cfg.seq (s.gtTrack k).rt (t.gtTrack k).rt

/-- GATE_ADVANCE and TRIGGER_SET (42_gate_engine.md R166, R167): on a running track the advance comes
first, and then the trigger is set from the slot at the new step; on a stopped track neither happens.
Which Backward rule the advance takes is left to `Config.backwardSections`. -/
def Obligations.GateAdvanceSetsTheTrigger : Prop :=
  ∀ (s : State) (k : Fin 6), let g := s.gtTrack k
    (g.cfg.running = true →
      exec (.gtAdv k) s =
        .next (afterGt s k (advanceGate Config.backwardSections g.cfg g.rt))) ∧
    (g.cfg.running = false → exec (.gtAdv k) s = .next (s.setResult none))

/-- DECAY (42_gate_engine.md R168): the counter falls by `n`, clamped at 0, and nothing else of the
block changes. -/
def Obligations.DecayCountsDownToZero : Prop :=
  ∀ (s : State) (k : Fin 6) (n : U32),
    exec (.gtDecay k n) s = .next ((s.setGt k { s.gtTrack k with
      tc := BitVec.ofNat 32 ((s.gtTrack k).tc.toNat - n.toNat) }).setResult none)

/-! ### Configuration and tables -/

/-- Configuration writes (30_encoding.md R75, R76, 41_cv_engine.md R122): direction code 3 is refused
and nothing is stored; any other word is stored with every field at its nearest legal value, and the
play-head is clamped, on a running and on a stopped track alike. -/
def Obligations.ConfigurationWriteClampsOrRefuses : Prop :=
  ∀ (s : State) (w : CfgWord),
    (w.toNat / 64 % 4 ≠ 3 →
      (∀ i, ∃ t, exec (.cvCfg i w) s = .next t ∧ StoresSeq w (t.cvEngine i).cfg ∧
        Clamped (t.cvEngine i).cfg (s.cvEngine i).rt (t.cvEngine i).rt ∧
        SameInterface s t) ∧
      ∀ k, ∃ t, exec (.gtCfg k w) s = .next t ∧ StoresGate w (t.gtTrack k).cfg ∧
        Clamped (t.gtTrack k).cfg.seq (s.gtTrack k).rt (t.gtTrack k).rt ∧ SameInterface s t) ∧
    (w.toNat / 64 % 4 = 3 →
      (∀ i : Fin 3, ∃ t, exec (.cvCfg i w) s = .next t ∧ SameBlock s t ∧
        t.refused = some ⟨BitVec.ofNat 16 (0x2000 + 512 * i.val), .badDirection⟩) ∧
      ∀ k : Fin 6, ∃ t, exec (.gtCfg k w) s = .next t ∧ SameBlock s t ∧
        t.refused = some ⟨BitVec.ofNat 16 (0x8000 + 512 * k.val), .badDirection⟩)

/-- `cv.wrval` (20_memory.md R52, R56): a later read of the element gives the value written, and every
other element of the table reads as before. -/
def Obligations.CvWriteChangesOneElement : Prop :=
  ∀ (s : State) (i : Fin 3) (slot : Slot) (o : Fin 3) (v : CvValue),
    Memory.wf Config.unlistedCv 96 (s.cvEngine i).pat = true →
    ∃ t, exec (.cvWrval i slot o v) s = .next t ∧
      ∀ slot' o', cvRead (t.cvEngine i).pat slot' o' =
        if slot' = slot ∧ o' = o then v else cvRead (s.cvEngine i).pat slot' o'

/-- `gt.wrstate` (30_encoding.md R77, 20_memory.md R52, R56): codes 0, 1, 2 write Off, Normal, Accent
into the one slot; any other code is refused and nothing is stored. -/
def Obligations.GateWriteChangesOneSlotOrRefuses : Prop :=
  ∀ (s : State) (k : Fin 6) (slot : Slot) (v : Code),
    (v.toNat ≤ 2 → Memory.wf Config.unlistedGate 32 (s.gtTrack k).pat = true →
      ∃ t, exec (.gtWrstate k slot v) s = .next t ∧ SameInterface s t ∧
        ∀ slot', gtRead (t.gtTrack k).pat slot' =
          if slot' = slot then
            (if v.toNat = 0 then .off else if v.toNat = 1 then .normal else .accent)
          else gtRead (s.gtTrack k).pat slot') ∧
    (2 < v.toNat → ∃ t, exec (.gtWrstate k slot v) s = .next t ∧ SameBlock s t ∧
      t.refused = some ⟨BitVec.ofNat 16 (0xF000 + 512 * k.val + 16 * slot.toNat), .badTriState⟩)

/-- Writing the same value twice leaves the same state as writing it once (20_memory.md R56). -/
def Obligations.TableWritesAreIdempotent : Prop :=
  ∀ s : State, s.TablesCanonical →
    (∀ i slot o v t, exec (.cvWrval i slot o v) s = .next t →
      exec (.cvWrval i slot o v) t = .next t) ∧
    ∀ k slot v t, v.toNat ≤ 2 → exec (.gtWrstate k slot v) s = .next t →
      exec (.gtWrstate k slot v) t = .next t

/-- The read operations (41_cv_engine.md R134, R135, 42_gate_engine.md R173, R174, R175) put the
play-head, the element, the tri-state code and the trigger output (10_state.md R27) on the result bus
and change nothing (20_memory.md R56). -/
def Obligations.ReadsAnswerAndChangeNothing : Prop :=
  ∀ s : State,
    (∀ i, exec (.cvRdstep i) s = .next (s.setResult (some (.u5 (s.cvEngine i).rt.step)))) ∧
    (∀ i slot o, exec (.cvRdval i slot o) s =
      .next (s.setResult (some (.int16 (cvRead (s.cvEngine i).pat slot o))))) ∧
    (∀ k, exec (.gtRdstep k) s = .next (s.setResult (some (.u5 (s.gtTrack k).rt.step)))) ∧
    (∀ k slot, exec (.gtRdstate k slot) s = .next (s.setResult
      (some (.u8 (match gtRead (s.gtTrack k).pat slot with
        | .off => 0
        | .normal => 1
        | .accent => 2))))) ∧
    ∀ k, exec (.gtRdtrig k) s =
      .next (s.setResult (some (.bool (decide ((s.gtTrack k).tc ≠ 0)))))

/-! ### The Dispatcher -/

/-- One evaluation cycle (43_dispatcher.md R200 to R202): the samples are stored, every trigger counter
decays, and then each engine gets its edges, whatever the other engines hold. That the reset edge comes
before the clock edge is COINCIDENT_ORDER at RESET_THEN_ADVANCE (R204, decision D9), and `codeMirror`
is BACKWARD_SECTIONS at CODE_MIRROR (41_cv_engine.md R128): both are DESIGN CHOICES of the spec that
the model follows (log 10), so this statement is about a machine with those values. -/
def Obligations.TickDecaysThenDeliversTheEdges : Prop :=
  ∀ (clk rst : Sample) (n : U32) (s : State),
    let ce := sampleLow s.prevClk && sampleHigh clk
    let re := sampleLow s.prevRst && sampleHigh rst
    ∃ t, exec (.tick clk rst n) s = .next t ∧ t.prevClk = clk ∧ t.prevRst = rst ∧
      (∀ i, let e := if re then cvReset (s.cvEngine i) else s.cvEngine i
        t.cvEngine i = if ce then cvAdvance .codeMirror e else e) ∧
      (∀ k, let d := { s.gtTrack k with
              tc := BitVec.ofNat 32 ((s.gtTrack k).tc.toNat - n.toNat) }
        let g := if re then gateReset d else d
        t.gtTrack k = if ce then gateAdvance .codeMirror Config.pulseSamples g else g) ∧
      t.result = none ∧ SameInterface s t

/-- Phase 2 comes before phase 3 (43_dispatcher.md R202): every trigger counter is decremented by `n` (clamped at 0), running or not, with or
without an edge, and the dispatch sees the decremented counter; so without a clock edge, and on a
stopped track, the decrement is all, and a pulse the dispatch sets is not decremented in its own tick.
After the tick `gt.rdtrig` answers whether the counter is above 0 (R205). How coincident edges are
ordered (R204) is left to `dispatchGt`. -/
def Obligations.TickDecaysBeforeTheDispatch : Prop :=
  ∀ (clk rst : Sample) (n : U32) (s : State),
    ∃ t, exec (.tick clk rst n) s = .next t ∧ ∀ k,
      let d := BitVec.ofNat 32 ((s.gtTrack k).tc.toNat - n.toNat)
      t.gtTrack k = dispatchGt Config.coincidentOrder Config.backwardSections Config.pulseSamples
        (rising s.prevClk clk) (rising s.prevRst rst) { s.gtTrack k with tc := d } ∧
      (rising s.prevClk clk = false ∨ (s.gtTrack k).cfg.running = false → (t.gtTrack k).tc = d) ∧
      ((t.gtTrack k).tc = d ∨ (t.gtTrack k).tc = Config.pulseSamples) ∧
      exec (.gtRdtrig k) t =
        .next (t.setResult (some (.bool (decide (0 < (t.gtTrack k).tc.toNat)))))

/-- The order in which the nine engines are visited does not change the state a tick leaves
(43_dispatcher.md R206): every order of R203's list, CV engines and gate tracks interleaved in any way,
gives the state of R203's own order. -/
def Obligations.TickIsIndependentOfTheEngineOrder : Prop :=
  ∀ (es : List EngineId) (clk rst : Sample) (n : U32) (s : State),
    es.Perm engineOrder → tickIn es clk rst n s = tickIn engineOrder clk rst n s ∧
      exec (.tick clk rst n) s = .next ((tickIn es clk rst n s).setResult none)

/-- No engine depends on another's state (43_dispatcher.md R206, 10_state.md R20): under any operation,
what an engine becomes is fixed by its own state and the two edge memories. -/
def Obligations.NoEngineDependsOnAnother : Prop :=
  ∀ (op : Instr) (s s' t t' : State), exec op s = .next t → exec op s' = .next t' →
    s.prevClk = s'.prevClk → s.prevRst = s'.prevRst →
    (∀ i, s.cvEngine i = s'.cvEngine i → t.cvEngine i = t'.cvEngine i) ∧
      ∀ k, s.gtTrack k = s'.gtTrack k → t.gtTrack k = t'.gtTrack k

/-- With one edge alone the three values of COINCIDENT_ORDER agree, for either reading of Backward
(43_dispatcher.md R204). -/
def Obligations.OneEdgeAloneMakesTheOrdersAgree : Prop :=
  ∀ (o o' : CoincidentOrder) (b : BackwardSections) (p : U32) (ce re : Bool) (e : CvEngine)
    (g : GateTrack), (ce && re) = false →
    dispatchCv o b ce re e = dispatchCv o' b ce re e ∧
      dispatchGt o b p ce re g = dispatchGt o' b p ce re g

/-- Coincident edges (43_dispatcher.md R204), at the spec's value RESET_THEN_ADVANCE of
COINCIDENT_ORDER (decision D9, log 10): with sections disabled and `length` at least 2, a tick with
both edges leaves an engine on step 1 in Forward and Pingpong and on step `length - 2` in Backward; the
other two values of COINCIDENT_ORDER would leave it on its reset step. -/
def Obligations.CoincidentEdgesLeaveOneAdvancePastReset : Prop :=
  ∀ (clk rst : Sample) (n : U32) (s : State), rising s.prevClk clk = true →
    rising s.prevRst rst = true → ∃ t, exec (.tick clk rst n) s = .next t ∧
    (∀ i, let c := (s.cvEngine i).cfg
      c.Legal → 2 ≤ c.length.toNat → ¬ Sectioned c →
      (t.cvEngine i).rt.step = (if c.direction = .backward then at5 (c.length.toNat - 2) else 1) ∧
      ∀ o b, o ≠ .resetThenAdvance →
        (dispatchCv o b true true (s.cvEngine i)).rt = startOf c) ∧
    ∀ k, let c := (s.gtTrack k).cfg
      c.Legal → c.running = true → 2 ≤ c.seq.length.toNat → ¬ Sectioned c.seq →
      (t.gtTrack k).rt.step =
        (if c.seq.direction = .backward then at5 (c.seq.length.toNat - 2) else 1) ∧
      ∀ o b p, o ≠ .resetThenAdvance →
        (dispatchGt o b p true true (s.gtTrack k)).rt = startOf c.seq

/-! ### Who writes what, and frames -/

/-- The writers of the edge memory, the configuration and the tables are the ones the spec names
(10_state.md R21, R28, R29, R32, R33). -/
def Obligations.OnlyNamedOperationsWriteConfigurationAndTables : Prop :=
  ∀ (op : Instr) (s t : State), exec op s = .next t →
    (t.prevClk ≠ s.prevClk → (∃ v, op = .edgeClk v) ∨ ∃ c r n, op = .tick c r n) ∧
    (t.prevRst ≠ s.prevRst → (∃ v, op = .edgeRst v) ∨ ∃ c r n, op = .tick c r n) ∧
    (∀ i, (t.cvEngine i).cfg ≠ (s.cvEngine i).cfg → ∃ w, op = .cvCfg i w) ∧
    (∀ k, (t.gtTrack k).cfg ≠ (s.gtTrack k).cfg → ∃ w, op = .gtCfg k w) ∧
    (∀ i, (t.cvEngine i).pat ≠ (s.cvEngine i).pat → ∃ slot o v, op = .cvWrval i slot o v) ∧
    ∀ k, (t.gtTrack k).pat ≠ (s.gtTrack k).pat → ∃ slot v, op = .gtWrstate k slot v

/-- The writers of the runtime registers are the ones the spec names (10_state.md R22 to R26): the
configuration write moves only `step`; `pf` is written by the pingpong advances and resets, the
counters and the section flag by the sectioned advances and resets, and `tc` by an advance and the
decay, never by a reset. -/
def Obligations.OnlyNamedOperationsWriteRuntimeRegisters : Prop :=
  ∀ (op : Instr) (s t : State), exec op s = .next t → (∀ c r n, op ≠ .tick c r n) →
    (∀ i, let e := s.cvEngine i
      let e' := t.cvEngine i
      (e'.rt.step ≠ e.rt.step → op = .cvAdv i ∨ op = .cvRst i ∨ ∃ w, op = .cvCfg i w) ∧
      (e'.rt.pf ≠ e.rt.pf →
        (op = .cvAdv i ∧ e.cfg.direction = .pingpong) ∨ op = .cvRst i) ∧
      (e'.rt.c1 ≠ e.rt.c1 ∨ e'.rt.c2 ≠ e.rt.c2 ∨ e'.rt.s2 ≠ e.rt.s2 →
        (op = .cvAdv i ∧ e.cfg.direction ≠ .pingpong ∧ Sectioned e.cfg) ∨ op = .cvRst i)) ∧
    ∀ k, let g := s.gtTrack k
      let g' := t.gtTrack k
      (g'.rt.step ≠ g.rt.step → op = .gtAdv k ∨ op = .gtRst k ∨ ∃ w, op = .gtCfg k w) ∧
      (g'.rt.pf ≠ g.rt.pf →
        (op = .gtAdv k ∧ g.cfg.seq.direction = .pingpong) ∨ op = .gtRst k) ∧
      (g'.rt.c1 ≠ g.rt.c1 ∨ g'.rt.c2 ≠ g.rt.c2 ∨ g'.rt.s2 ≠ g.rt.s2 →
        (op = .gtAdv k ∧ g.cfg.seq.direction ≠ .pingpong ∧ Sectioned g.cfg.seq) ∨ op = .gtRst k) ∧
      (g'.tc ≠ g.tc → op = .gtAdv k ∨ ∃ n, op = .gtDecay k n)

/-- The frame of the CV operations: an operation on CV engine `i` leaves the edge memory, every gate
track and every other CV engine alone; within the engine, `cv.adv` and `cv.rst` keep the
configuration and every element of the table, `cv.cfg` keeps the table and every runtime register but
`step`, and `cv.wrval` keeps the configuration, the runtime registers and every element but the one it
stores to, at element address `cvAddr`. -/
def Obligations.CvOperationsFrame : Prop :=
  ∀ (op : Instr) (i : Fin 3) (s t : State), exec op s = .next t →
    (op = .cvAdv i ∨ op = .cvRst i ∨ (∃ w, op = .cvCfg i w) ∨
      ∃ slot o v, op = .cvWrval i slot o v) →
    t.prevClk = s.prevClk ∧ t.prevRst = s.prevRst ∧ t.pending = s.pending ∧
      (op.WellFormed = true → t.refused = s.refused) ∧
      (∀ j, j ≠ i → t.cvEngine j = s.cvEngine j) ∧ (∀ k, t.gtTrack k = s.gtTrack k) ∧
      ((∀ w, op ≠ .cvCfg i w) → (t.cvEngine i).cfg = (s.cvEngine i).cfg) ∧
      ((∃ w, op = .cvCfg i w) →
        (t.cvEngine i).rt = { (s.cvEngine i).rt with step := (t.cvEngine i).rt.step }) ∧
      ((∃ slot o v, op = .cvWrval i slot o v) → (t.cvEngine i).rt = (s.cvEngine i).rt) ∧
      ∀ a, (∀ slot o v, op = .cvWrval i slot o v → a ≠ cvAddr slot o) →
        Memory.read Config.unlistedCv (t.cvEngine i).pat a =
          Memory.read Config.unlistedCv (s.cvEngine i).pat a

/-- The frame of the gate operations: an operation on track `k` leaves the edge memory, every CV
engine and every other track alone; within the track, `gt.adv`, `gt.rst` and `gt.decay` keep the
configuration and every slot of the table, `gt.rst` keeps `tc`, `gt.decay` keeps the runtime
registers, `gt.cfg` keeps `tc`, the table and every runtime register but `step`, and `gt.wrstate`
keeps all but the slot it stores to, at element address `gtAddr`. -/
def Obligations.GateOperationsFrame : Prop :=
  ∀ (op : Instr) (k : Fin 6) (s t : State), exec op s = .next t →
    (op = .gtAdv k ∨ op = .gtRst k ∨ (∃ n, op = .gtDecay k n) ∨ (∃ w, op = .gtCfg k w) ∨
      ∃ slot v, op = .gtWrstate k slot v) →
    t.prevClk = s.prevClk ∧ t.prevRst = s.prevRst ∧ t.pending = s.pending ∧
      (op.WellFormed = true → t.refused = s.refused) ∧
      (∀ j, j ≠ k → t.gtTrack j = s.gtTrack j) ∧ (∀ i, t.cvEngine i = s.cvEngine i) ∧
      ((∀ w, op ≠ .gtCfg k w) → (t.gtTrack k).cfg = (s.gtTrack k).cfg) ∧
      ((∃ w, op = .gtCfg k w) →
        (t.gtTrack k).rt = { (s.gtTrack k).rt with step := (t.gtTrack k).rt.step }) ∧
      (op ≠ .gtAdv k → (∀ n, op ≠ .gtDecay k n) → (t.gtTrack k).tc = (s.gtTrack k).tc) ∧
      ((∃ n, op = .gtDecay k n) ∨ (∃ slot v, op = .gtWrstate k slot v) →
        (t.gtTrack k).rt = (s.gtTrack k).rt) ∧
      ∀ a, (∀ slot v, op = .gtWrstate k slot v → a ≠ gtAddr slot) →
        Memory.read Config.unlistedGate (t.gtTrack k).pat a =
          Memory.read Config.unlistedGate (s.gtTrack k).pat a

/-- The frame of `tick`: no configuration, no table and no mark changes, and with no edge the runtime
registers of every engine stay as they are (43_dispatcher.md R200). -/
def Obligations.TickFrame : Prop :=
  ∀ (clk rst : Sample) (n : U32) (s t : State), exec (.tick clk rst n) s = .next t →
    SameInterface s t ∧
    (∀ i, (t.cvEngine i).cfg = (s.cvEngine i).cfg ∧ (t.cvEngine i).pat = (s.cvEngine i).pat) ∧
    (∀ k, (t.gtTrack k).cfg = (s.gtTrack k).cfg ∧ (t.gtTrack k).pat = (s.gtTrack k).pat) ∧
    (rising s.prevClk clk = false → rising s.prevRst rst = false →
      (∀ i, (t.cvEngine i).rt = (s.cvEngine i).rt) ∧ ∀ k, (t.gtTrack k).rt = (s.gtTrack k).rt)

/-! ### Loops and pulses -/

/-- Ring closure (41_cv_engine.md R138): with sections disabled, `k` Forward advances from step 0 stand
on step `k mod length`, and `k` Backward advances from `length - 1` visit the same ring in reverse, so
`length` advances close it. -/
def Obligations.AdvancesCloseTheRing : Prop :=
  ∀ (s : State) (i : Fin 3) (k : Nat), let e := s.cvEngine i
    e.cfg.Legal → ¬ Sectioned e.cfg →
    (e.cfg.direction = .forward → e.rt.step.toNat = 0 →
      ∃ t, execTimes (.cvAdv i) k s = .next t ∧
        (t.cvEngine i).rt.step.toNat = k % e.cfg.length.toNat) ∧
    (e.cfg.direction = .backward → e.rt.step.toNat = e.cfg.length.toNat - 1 →
      ∃ t, execTimes (.cvAdv i) k s = .next t ∧
        (t.cvEngine i).rt.step.toNat = e.cfg.length.toNat - 1 - k % e.cfg.length.toNat)

/-- CV pingpong (41_cv_engine.md R138): from step 0 moving up, the engine climbs for `length` states and
falls for `length` states, so it returns after `2 * length` advances and never leaves the range. -/
def Obligations.CvPingpongReturnsAfterTwoLengths : Prop :=
  ∀ (s : State) (i : Fin 3) (k : Nat), let e := s.cvEngine i
    e.cfg.Legal → e.cfg.direction = .pingpong → e.rt.step.toNat = 0 → e.rt.pf = true →
    let m := k % (2 * e.cfg.length.toNat)
    ∃ t, execTimes (.cvAdv i) k s = .next t ∧
      (t.cvEngine i).rt.step.toNat =
        (if m < e.cfg.length.toNat then m else 2 * e.cfg.length.toNat - 1 - m) ∧
      (t.cvEngine i).rt.pf = decide (m < e.cfg.length.toNat)

/-- Gate pingpong (42_gate_engine.md R178): from the reset state with `length` at least 2, advance `k + 1`
stands where the period `2 * length - 2` puts it, and the reset state (step 0 moving up) is never met
again. -/
def Obligations.GatePingpongHasPeriodTwoLengthsLessTwo : Prop :=
  ∀ (s : State) (j : Fin 6) (k : Nat), let g := s.gtTrack j
    g.cfg.Legal → g.cfg.running = true → g.cfg.seq.direction = .pingpong →
    2 ≤ g.cfg.seq.length.toNat → g.rt.step.toNat = 0 → g.rt.pf = true →
    let m := k % (2 * g.cfg.seq.length.toNat - 2) + 1
    ∃ t, execTimes (.gtAdv j) (k + 1) s = .next t ∧
      (t.gtTrack j).rt.step.toNat =
        (if m < g.cfg.seq.length.toNat then m else 2 * g.cfg.seq.length.toNat - 2 - m) ∧
      (t.gtTrack j).rt.pf = decide (m < g.cfg.seq.length.toNat)

/-- Forward with sections (41_cv_engine.md R138): from the reset state, section 1 is played `sec1Reps`
times and section 2 `sec2Reps` times, and the reset state returns after exactly
`sec1Reps * S + sec2Reps * (L - S)` advances. -/
def Obligations.ForwardSectionsLoopInExactlyTheirRepeats : Prop :=
  ∀ (s : State) (i : Fin 3) (k : Nat), let e := s.cvEngine i
    e.cfg.Legal → e.cfg.direction = .forward → Sectioned e.cfg → e.rt = startOf e.cfg →
    let L := e.cfg.length.toNat
    let S := e.cfg.splitPoint.toNat
    let A := e.cfg.sec1Reps.toNat * S
    let N := A + e.cfg.sec2Reps.toNat * (L - S)
    (k < N → ∃ t, execTimes (.cvAdv i) k s = .next t ∧ (t.cvEngine i).rt =
      (if k < A then ⟨at5 (k % S), true, BitVec.ofNat 32 (k / S), 0, false⟩
      else ⟨at5 (S + (k - A) % (L - S)), true, 0, BitVec.ofNat 32 ((k - A) / (L - S)), true⟩)) ∧
    ∃ t, execTimes (.cvAdv i) N s = .next t ∧ (t.cvEngine i).rt = startOf e.cfg

/-- Backward with sections (41_cv_engine.md R138) under BACKWARD_SECTIONS at CODE_MIRROR, the DESIGN
CHOICE of the spec that the model follows (log 10): from the reset state the S1-state
plays `[S, L)` downward `sec1Reps` times and the S2-state `[0, S)` `sec2Reps` times, and the reset
state returns after exactly `sec1Reps * (L - S) + sec2Reps * S` advances. -/
def Obligations.BackwardSectionsLoopInExactlyTheirRepeats : Prop :=
  ∀ (s : State) (i : Fin 3) (k : Nat), let e := s.cvEngine i
    e.cfg.Legal → e.cfg.direction = .backward → Sectioned e.cfg → e.rt = startOf e.cfg →
    let L := e.cfg.length.toNat
    let S := e.cfg.splitPoint.toNat
    let A := e.cfg.sec1Reps.toNat * (L - S)
    let N := A + e.cfg.sec2Reps.toNat * S
    (k < N → ∃ t, execTimes (.cvAdv i) k s = .next t ∧ (t.cvEngine i).rt =
      (if k < A then
        ⟨at5 (L - 1 - k % (L - S)), true, BitVec.ofNat 32 (k / (L - S)), 0, false⟩
      else ⟨at5 (S - 1 - (k - A) % S), true, 0, BitVec.ofNat 32 ((k - A) / S), true⟩)) ∧
    ∃ t, execTimes (.cvAdv i) N s = .next t ∧ (t.cvEngine i).rt = startOf e.cfg

/-- The fill (42_gate_engine.md R178): from the reset state of a running Forward track whose fill can
fire, the fill fires on advance `(sec1Reps - 1) * S + F`, from step `F - 1` to step `S`, and the reset
state returns after that many advances and `sec2Reps * (L - S)` more. -/
def Obligations.FillShortensTheForwardLoop : Prop :=
  ∀ (s : State) (j : Fin 6) (k : Nat), let g := s.gtTrack j
    let c := g.cfg.seq
    g.cfg.Legal → g.cfg.running = true → c.direction = .forward → Sectioned c →
    0 < g.cfg.fillStart.toNat → g.cfg.fillStart.toNat < c.splitPoint.toNat →
    1 < c.sec1Reps.toNat → g.rt = startOf c →
    let L := c.length.toNat
    let S := c.splitPoint.toNat
    let A := (c.sec1Reps.toNat - 1) * S + g.cfg.fillStart.toNat
    let N := A + c.sec2Reps.toNat * (L - S)
    (k < N → ∃ t, execTimes (.gtAdv j) k s = .next t ∧ (t.gtTrack j).rt =
      (if k < A then ⟨at5 (k % S), true, BitVec.ofNat 32 (k / S), 0, false⟩
      else ⟨at5 (S + (k - A) % (L - S)), true, 0, BitVec.ofNat 32 ((k - A) / (L - S)), true⟩)) ∧
    ∃ t, execTimes (.gtAdv j) N s = .next t ∧ (t.gtTrack j).rt = startOf c

/-- The trigger pulse (42_gate_engine.md R177): a tick whose clock edge lands a running track on a
non-Off slot makes the trigger active, and with a constant `n` per tick and no further edge it is
active for exactly `ceil(PULSE_SAMPLES / n)` ticks in all. It holds for every value of
PULSE_SAMPLES; where the first tick has a reset edge too, it rests on RESET_THEN_ADVANCE (log 10). -/
def Obligations.TriggerPulseLastsItsSamples : Prop :=
  ∀ (clk rst low low' : Sample) (n : U32) (s t : State) (j : Fin 6) (k : Nat),
    rising s.prevClk clk = true → (s.gtTrack j).cfg.running = true →
    exec (.tick clk rst n) s = .next t →
    gtRead (t.gtTrack j).pat (t.gtTrack j).rt.step ≠ .off →
    sampleHigh low = false → sampleHigh low' = false → 0 < n.toNat →
    (t.gtTrack j).tc = Config.pulseSamples ∧
    ∃ u, execTimes (.tick low low' n) k t = .next u ∧
      (u.gtTrack j).tc.toNat = Config.pulseSamples.toNat - k * n.toNat ∧
      (triggerActive (u.gtTrack j).tc = true ↔
        k < (Config.pulseSamples.toNat + n.toNat - 1) / n.toNat)
end

