-- ==== Sys2Proof/Laws/Automaton.lean ====
section
/-!
SUPPORT. The play-head register as a number, and what the automaton's rules keep: the play-head in
range (10_state.md R34) and the inactive counter at 0 (R35).
-/

namespace Sys2Proof.Machine

/-- An integer that fits the play-head register is read back from it. -/
theorem slotOf_toNat {n : Int} (h0 : 0 ≤ n) (h : n < 32) : ((slotOf n).toNat : Int) = n := by
  rw [slotOf, BitVec.toNat_ofInt]
  omega

theorem slotOf_natCast (n : Nat) : slotOf n = BitVec.ofNat 5 n := by
  apply BitVec.eq_of_toNat_eq
  rw [slotOf, BitVec.toNat_ofInt]
  simp
  omega

theorem zero_slot_toNat : ((0 : Slot).toNat : Int) = 0 := rfl

/-- The register holding an integer of `[0, L - 1]` is in range. -/
theorem slotOf_le {n : Int} {c : SeqCfg} (h32 : c.length.toNat ≤ 32) (h0 : 0 ≤ n)
    (h : n ≤ c.length.toNat - 1) : ((slotOf n).toNat : Int) ≤ c.length.toNat - 1 := by
  rw [slotOf_toNat h0 (by omega)]
  exact h

/-! ### The play-head stays in range -/

theorem advanceCv_pos_le (b : BackwardSections) {c : SeqCfg} {r : Runtime} (hc : c.Legal)
    (h : r.pos ≤ c.L - 1) : (advanceCv b c r).pos ≤ c.L - 1 := by
  obtain ⟨h1, h2, -⟩ := hc
  have hS := c.splitPoint.isLt
  have hp := r.step.isLt
  simp only [Runtime.pos, SeqCfg.L] at h ⊢
  unfold advanceCv
  cases c.direction <;>
    simp only [ppCv, fwdNosec, bwdNosec, sectionsEnabled, fwdSec, bwdSec, SeqCfg.L, SeqCfg.S,
      Runtime.pos]
  all_goals repeat' split
  all_goals first | (simp only [zero_slot_toNat]; omega) | skip
  all_goals try simp only [bwdSecCm, bwdSecRm, SeqCfg.L, SeqCfg.S, Runtime.pos]
  all_goals repeat' split
  all_goals apply slotOf_le h2 <;> simp_all <;> omega

theorem advanceGate_pos_le (b : BackwardSections) {c : GateCfg} {r : Runtime} (hc : c.seq.Legal)
    (h : r.pos ≤ c.seq.L - 1) : (advanceGate b c r).pos ≤ c.seq.L - 1 := by
  have hcv := advanceCv_pos_le b hc h
  obtain ⟨h1, h2, -⟩ := hc
  have hS := c.seq.splitPoint.isLt
  have hp := r.step.isLt
  unfold advanceCv at hcv
  unfold advanceGate
  cases hd : c.seq.direction <;> simp only [hd] at hcv ⊢
  · split <;> rename_i hs
    · rw [if_pos hs] at hcv
      unfold fwdSecGate
      split
      · simp only [sectionsEnabled, Bool.and_eq_true, decide_eq_true_eq, SeqCfg.L, SeqCfg.S] at hs
        simp only [Runtime.pos, SeqCfg.L, SeqCfg.S]
        exact slotOf_le h2 (by omega) (by omega)
      · exact hcv
    · rwa [if_neg hs] at hcv
  · exact hcv
  · simp only [Runtime.pos, SeqCfg.L] at h ⊢
    simp only [ppGate, Runtime.pos, SeqCfg.L]
    repeat' split
    all_goals apply slotOf_le h2 <;> omega

theorem resetEngine_pos_le {c : SeqCfg} (r : Runtime) (hc : c.Legal) :
    (resetEngine c r).pos ≤ c.L - 1 := by
  obtain ⟨h1, h2, -⟩ := hc
  simp only [Runtime.pos, SeqCfg.L, resetEngine]
  split
  · exact slotOf_le h2 (by omega) (by omega)
  · simp only [zero_slot_toNat]; omega

theorem clamp_pos_le {c : SeqCfg} (r : Runtime) (hc : c.Legal) : (clamp c r).pos ≤ c.L - 1 := by
  obtain ⟨h1, h2, -⟩ := hc
  simp only [clamp, Runtime.pos, SeqCfg.L]
  split
  · exact slotOf_le h2 (by omega) (by omega)
  · omega

/-! ### The inactive counter stays at 0 -/

theorem advanceCv_countersExclusive (b : BackwardSections) (c : SeqCfg) {r : Runtime}
    (h : r.CountersExclusive) : (advanceCv b c r).CountersExclusive := by
  obtain ⟨ha, hb⟩ := h
  unfold advanceCv
  cases c.direction <;> cases b <;>
    simp only [ppCv, fwdNosec, bwdNosec, fwdSec, bwdSec, bwdSecCm, bwdSecRm]
  all_goals repeat' split
  all_goals simp_all [Runtime.CountersExclusive]

theorem advanceGate_countersExclusive (b : BackwardSections) (c : GateCfg) {r : Runtime}
    (h : r.CountersExclusive) : (advanceGate b c r).CountersExclusive := by
  have hcv := advanceCv_countersExclusive b c.seq h
  obtain ⟨ha, hb⟩ := h
  unfold advanceCv at hcv
  unfold advanceGate
  cases hd : c.seq.direction <;> simp only [hd] at hcv ⊢
  · unfold fwdSecGate
    split
    · rename_i hs
      rw [if_pos hs] at hcv
      split
      · rename_i hf
        simp only [fillCond, Bool.and_eq_true, Bool.not_eq_true'] at hf
        simp_all [Runtime.CountersExclusive]
      · exact hcv
    · rename_i hs
      rwa [if_neg hs] at hcv
  · exact hcv
  · simp only [ppGate]
    repeat' split
    all_goals simp_all [Runtime.CountersExclusive]

theorem resetEngine_countersExclusive (c : SeqCfg) (r : Runtime) :
    (resetEngine c r).CountersExclusive := by
  simp [resetEngine, Runtime.CountersExclusive]

theorem clamp_countersExclusive (c : SeqCfg) {r : Runtime} (h : r.CountersExclusive) :
    (clamp c r).CountersExclusive := by
  unfold clamp
  split <;> exact h

/-- The clamp writes `step` only (R122). -/
theorem clamp_eq (c : SeqCfg) (r : Runtime) : clamp c r = { r with step := (clamp c r).step } := by
  unfold clamp
  split <;> rfl

end Sys2Proof.Machine
end

