-- ==== Sys2Proof/Laws/Decode.lean ====
section
/-!
SUPPORT. The fields of the operation word as numbers, and each field read back from an encoded word
(30_encoding.md R70, R71).
-/

namespace Sys2Proof

section Fields

variable (w : OpWord)

theorem opOf_toNat : (opOf w).toNat = w.toNat / 4096 := by
  have := w.isLt
  simp only [opOf, BitVec.extractLsb'_toNat, Nat.shiftRight_eq_div_pow]
  omega

theorem instOf_toNat : (instOf w).toNat = w.toNat / 512 % 8 := by
  simp only [instOf, BitVec.extractLsb'_toNat, Nat.shiftRight_eq_div_pow]

theorem stepOf_toNat : (stepOf w).toNat = w.toNat / 16 % 32 := by
  simp only [stepOf, BitVec.extractLsb'_toNat, Nat.shiftRight_eq_div_pow]

theorem selOf_toNat : (selOf w).toNat = w.toNat / 4 % 4 := by
  simp only [selOf, BitVec.extractLsb'_toNat, Nat.shiftRight_eq_div_pow]

theorem rsvOf_toNat : (rsvOf w).toNat = w.toNat % 4 := by
  simp only [rsvOf, BitVec.extractLsb'_toNat, Nat.shiftRight_eq_div_pow]
  omega

/-- A word is determined by its five fields. -/
theorem word_toNat_eq_fields : w.toNat = 4096 * (opOf w).toNat + 512 * (instOf w).toNat
    + 16 * (stepOf w).toNat + 4 * (selOf w).toNat + (rsvOf w).toNat := by
  rw [opOf_toNat, instOf_toNat, stepOf_toNat, selOf_toNat, rsvOf_toNat]
  omega

end Fields

section OpWord

variable (op : BitVec 4) (inst : BitVec 3) (step : BitVec 5) (sel : BitVec 2)

/-- The encoder's word as a number: `op<<12 | inst<<9 | step<<4 | sel<<2` (R70). -/
theorem opWord_toNat : (opWord op inst step sel).toNat =
    4096 * op.toNat + 512 * inst.toNat + 16 * step.toNat + 4 * sel.toNat := by
  have h1 := inst.isLt
  have h2 := step.isLt
  have h3 := sel.isLt
  simp only [opWord, BitVec.toNat_append]
  rw [← Nat.shiftLeft_add_eq_or_of_lt h1, ← Nat.shiftLeft_add_eq_or_of_lt h2,
    ← Nat.shiftLeft_add_eq_or_of_lt h3, ← Nat.shiftLeft_add_eq_or_of_lt (by decide)]
  simp only [Nat.shiftLeft_eq, BitVec.toNat_ofNat]
  omega

@[simp] theorem opOf_opWord : opOf (opWord op inst step sel) = op := by
  have := op.isLt; have := inst.isLt; have := step.isLt; have := sel.isLt
  apply BitVec.eq_of_toNat_eq
  rw [opOf_toNat, opWord_toNat]
  omega

@[simp] theorem instOf_opWord : instOf (opWord op inst step sel) = inst := by
  have := op.isLt; have := inst.isLt; have := step.isLt; have := sel.isLt
  apply BitVec.eq_of_toNat_eq
  rw [instOf_toNat, opWord_toNat]
  omega

@[simp] theorem stepOf_opWord : stepOf (opWord op inst step sel) = step := by
  have := op.isLt; have := inst.isLt; have := step.isLt; have := sel.isLt
  apply BitVec.eq_of_toNat_eq
  rw [stepOf_toNat, opWord_toNat]
  omega

@[simp] theorem selOf_opWord : selOf (opWord op inst step sel) = sel := by
  have := op.isLt; have := inst.isLt; have := step.isLt; have := sel.isLt
  apply BitVec.eq_of_toNat_eq
  rw [selOf_toNat, opWord_toNat]
  omega

@[simp] theorem rsvOf_opWord : rsvOf (opWord op inst step sel) = 0 := by
  have := op.isLt; have := inst.isLt; have := step.isLt; have := sel.isLt
  apply BitVec.eq_of_toNat_eq
  rw [rsvOf_toNat, opWord_toNat]
  simp only [BitVec.ofNat_eq_ofNat, BitVec.toNat_ofNat]
  omega

end OpWord

/-! ### Index fields survive the round trip -/

@[simp] theorem cvIndex_fin3Inst (i : Fin 3) : cvIndex (fin3Inst i) = i := by
  revert i; decide

@[simp] theorem gtIndex_fin6Inst (t : Fin 6) : gtIndex (fin6Inst t) = t := by
  revert t; decide

@[simp] theorem outIndex_outSel (o : Fin 3) : outIndex (outSel o) = o := by
  revert o; decide

theorem fin3Inst_cvIndex {b : BitVec 3} (h : b.toNat ≤ 2) : fin3Inst (cvIndex b) = b := by
  revert b; decide

theorem fin6Inst_gtIndex {b : BitVec 3} (h : b.toNat ≤ 5) : fin6Inst (gtIndex b) = b := by
  revert b; decide

theorem outSel_outIndex {b : BitVec 2} (h : b.toNat ≤ 2) : outSel (outIndex b) = b := by
  revert b; decide

theorem fin3Inst_le (i : Fin 3) : (fin3Inst i).toNat ≤ 2 := by revert i; decide

theorem fin6Inst_le (t : Fin 6) : (fin6Inst t).toNat ≤ 5 := by revert t; decide

theorem outSel_le (o : Fin 3) : (outSel o).toNat ≤ 2 := by revert o; decide

/-! ### The three checks, on the number the word is -/

theorem reservedBitsSet_iff (w : OpWord) : reservedBitsSet w = true ↔
    (w.toNat % 4 ≠ 0 ∨ (w.toNat / 4096 < 2 ∧ w.toNat / 512 % 8 ≠ 0) ∨
      (w.toNat / 4096 ∉ [6, 7, 13, 15] ∧ w.toNat / 16 % 32 ≠ 0) ∨
      (w.toNat / 4096 ∉ [1, 6, 7] ∧ w.toNat / 4 % 4 ≠ 0)) := by
  simp only [reservedBitsSet, usesInst, usesStep, usesSel, Bool.or_eq_true, Bool.and_eq_true,
    bne_iff_ne, ne_eq, ← BitVec.toNat_inj, opOf_toNat, instOf_toNat, stepOf_toNat, selOf_toNat,
    rsvOf_toNat, Bool.not_eq_true', Bool.or_eq_false_iff, beq_eq_false_iff_ne,
    decide_eq_false_iff_not]
  simp
  omega

theorem instanceOutOfRange_iff (w : OpWord) : instanceOutOfRange w = true ↔
    ((2 ≤ w.toNat / 4096 ∧ w.toNat / 4096 ≤ 7 ∧ 2 < w.toNat / 512 % 8) ∨
      (8 ≤ w.toNat / 4096 ∧ 5 < w.toNat / 512 % 8)) := by
  simp only [instanceOutOfRange, Bool.or_eq_true, Bool.and_eq_true, decide_eq_true_eq, opOf_toNat,
    instOf_toNat]
  tauto

theorem selectOutOfRange_iff (w : OpWord) : selectOutOfRange w = true ↔
    ((w.toNat / 4096 = 1 ∧ 1 < w.toNat / 4 % 4) ∨
      (w.toNat / 4096 ∈ [6, 7] ∧ 2 < w.toNat / 4 % 4)) := by
  simp only [selectOutOfRange, Bool.or_eq_true, Bool.and_eq_true, decide_eq_true_eq, beq_iff_eq,
    ← BitVec.toNat_inj, opOf_toNat, selOf_toNat]
  simp

/-! ### The decoder's three outcomes -/

/-- A word decodes exactly when it passes the three checks, and then to `operationOf`. -/
theorem decode_eq_ok_iff (w : OpWord) (x : Operands) (op : Instr) :
    decode w x = .ok op ↔ reservedBitsSet w = false ∧ instanceOutOfRange w = false ∧
      selectOutOfRange w = false ∧ operationOf w x = op := by
  unfold decode
  split <;> rename_i h1
  · simp [h1]
  · split <;> rename_i h2
    · simp [h2]
    · split <;> rename_i h3 <;> simp_all

end Sys2Proof
end

