-- ==== Sys2Proof/Laws/Memory.lean ====
section
/-!
SUPPORT. The laws of the element memories: read after write, canonical form, and equal reads making
equal memories (20_memory.md R52, R56).
-/

namespace Sys2Proof.Machine

variable {α : Type} [DecidableEq α] (d : α)

theorem Memory.read_of_lt {bound lo : Nat} {m : Memory α} {a : Nat}
    (h : Memory.wfFrom d bound lo m = true) (ha : a < lo) : Memory.read d m a = d := by
  induction m generalizing lo with
  | nil => rfl
  | cons x m ih =>
    obtain ⟨b, w⟩ := x
    simp only [Memory.wfFrom, Bool.and_eq_true, decide_eq_true_eq] at h
    obtain ⟨⟨⟨h1, -⟩, -⟩, h4⟩ := h
    simp only [Memory.read]
    rw [if_neg (by omega)]
    exact ih h4 (by omega)

/-- A read after a write to the same address gives the value written. -/
theorem Memory.read_write_same {bound : Nat} {m : Memory α} (a : Nat) (v : α)
    (h : Memory.wf d bound m = true) : Memory.read d (Memory.write d m a v) a = v := by
  unfold Memory.wf at h
  generalize 0 = lo at h
  induction m generalizing lo with
  | nil => by_cases hv : v = d <;> simp [Memory.write, Memory.read, hv]
  | cons x m ih =>
    obtain ⟨b, w⟩ := x
    have hcons := h
    simp only [Memory.wfFrom, Bool.and_eq_true, decide_eq_true_eq] at h
    obtain ⟨⟨⟨h1, h2⟩, h3⟩, h4⟩ := h
    simp only [Memory.write]
    split
    · split
      · subst_vars
        simp only [Memory.read]
        rw [if_neg (by omega)]
        exact Memory.read_of_lt _ h4 (by omega)
      · simp [Memory.read]
    · split
      · split
        · subst_vars; exact Memory.read_of_lt _ h4 (by omega)
        · simp [Memory.read]
      · simp only [Memory.read]
        rw [if_neg (by omega)]
        exact ih _ h4

/-- A write leaves every other address alone. -/
theorem Memory.read_write_other {m : Memory α} {a b : Nat} (v : α) (hab : b ≠ a) :
    Memory.read d (Memory.write d m a v) b = Memory.read d m b := by
  induction m with
  | nil => by_cases hv : v = d <;> simp [Memory.write, Memory.read, hv, hab]
  | cons x m ih =>
    obtain ⟨c, w⟩ := x
    simp only [Memory.write]
    split
    · split <;> simp [Memory.read, hab]
    · split
      · split <;> simp_all [Memory.read]
      · simp [Memory.read, ih]

theorem Memory.wfFrom_mono {bound lo lo' : Nat} {m : Memory α} (hle : lo' ≤ lo)
    (h : Memory.wfFrom d bound lo m = true) : Memory.wfFrom d bound lo' m = true := by
  cases m with
  | nil => rfl
  | cons x m =>
    simp only [Memory.wfFrom, Bool.and_eq_true, decide_eq_true_eq] at h ⊢
    exact ⟨⟨⟨hle.trans h.1.1.1, h.1.1.2⟩, h.1.2⟩, h.2⟩

theorem Memory.wfFrom_write {bound lo a : Nat} {m : Memory α} (v : α) (ha : a < bound)
    (hlo : lo ≤ a) (h : Memory.wfFrom d bound lo m = true) :
    Memory.wfFrom d bound lo (Memory.write d m a v) = true := by
  induction m generalizing lo with
  | nil => by_cases hv : v = d <;> simp [Memory.write, Memory.wfFrom, hv, ha, hlo]
  | cons x m ih =>
    obtain ⟨b, w⟩ := x
    simp only [Memory.wfFrom, Bool.and_eq_true, decide_eq_true_eq] at h
    obtain ⟨⟨⟨h1, h2⟩, h3⟩, h4⟩ := h
    simp only [Memory.write]
    split
    · split
      · simp [Memory.wfFrom, h1, h2, h3, h4]
      · rename_i hlt hv
        simp [Memory.wfFrom, hlo, ha, hv, h2, h3, h4, Nat.succ_le_of_lt hlt]
    · split
      · subst_vars
        split
        · exact Memory.wfFrom_mono _ (by omega) h4
        · rename_i hv; simp [Memory.wfFrom, hlo, ha, hv, h4]
      · have := ih (lo := b + 1) (by omega) h4
        simp [Memory.wfFrom, h1, h2, h3, this]

/-- A write inside the table keeps the canonical form. -/
theorem Memory.wf_write {bound a : Nat} {m : Memory α} (v : α) (ha : a < bound)
    (h : Memory.wf d bound m = true) : Memory.wf d bound (Memory.write d m a v) = true :=
  Memory.wfFrom_write d v ha (Nat.zero_le _) h

theorem Memory.wfFrom_ext {bound lo : Nat} {m m' : Memory α}
    (h : Memory.wfFrom d bound lo m = true) (h' : Memory.wfFrom d bound lo m' = true)
    (he : ∀ a, Memory.read d m a = Memory.read d m' a) : m = m' := by
  induction m generalizing lo m' with
  | nil =>
    cases m' with
    | nil => rfl
    | cons y m' =>
      simp only [Memory.wfFrom, Bool.and_eq_true, decide_eq_true_eq] at h'
      have := he y.1
      simp [Memory.read] at this
      exact absurd this.symm h'.1.2
  | cons x m ih =>
    obtain ⟨b, w⟩ := x
    cases m' with
    | nil =>
      simp only [Memory.wfFrom, Bool.and_eq_true, decide_eq_true_eq] at h
      have := he b
      simp [Memory.read] at this
      exact absurd this h.1.2
    | cons y m' =>
      obtain ⟨c, w'⟩ := y
      simp only [Memory.wfFrom, Bool.and_eq_true, decide_eq_true_eq] at h h'
      obtain ⟨⟨⟨-, -⟩, h3⟩, h4⟩ := h
      obtain ⟨⟨⟨-, -⟩, h3'⟩, h4'⟩ := h'
      have hbc : b = c := by
        rcases Nat.lt_trichotomy b c with hlt | heq | hgt
        · have := he b
          simp only [Memory.read, if_pos] at this
          rw [if_neg (by omega), Memory.read_of_lt _ h4' (by omega)] at this
          exact absurd this h3
        · exact heq
        · have := he c
          simp only [Memory.read, if_pos] at this
          rw [if_neg (by omega), Memory.read_of_lt _ h4 (by omega)] at this
          exact absurd this.symm h3'
      subst hbc
      have hw : w = w' := by have := he b; simpa [Memory.read] using this
      subst hw
      have : m = m' := by
        refine ih h4 h4' fun a => ?_
        by_cases hab : a = b
        · subst hab
          rw [Memory.read_of_lt _ h4 (by omega), Memory.read_of_lt _ h4' (by omega)]
        · have := he a
          simpa [Memory.read, hab] using this
      rw [this]

/-- Equal reads make equal data: two memories in canonical form that read alike are one list. -/
theorem Memory.wf_ext {bound : Nat} {m m' : Memory α} (h : Memory.wf d bound m = true)
    (h' : Memory.wf d bound m' = true) (he : ∀ a, Memory.read d m a = Memory.read d m' a) :
    m = m' :=
  Memory.wfFrom_ext d h h' he

/-! ### The element addresses -/

theorem cvAddr_lt (s : Slot) (o : Fin 3) : cvAddr s o < 96 := by
  have := s.isLt
  have := o.isLt
  unfold cvAddr
  omega

theorem gtAddr_lt (s : Slot) : gtAddr s < 32 := s.isLt

theorem cvAddr_inj {s s' : Slot} {o o' : Fin 3} :
    cvAddr s o = cvAddr s' o' ↔ s = s' ∧ o = o' := by
  have := o.isLt
  have := o'.isLt
  rw [Fin.ext_iff, ← BitVec.toNat_inj]
  unfold cvAddr
  omega

theorem gtAddr_inj {s s' : Slot} : gtAddr s = gtAddr s' ↔ s = s' := BitVec.toNat_inj

theorem cvWrite_wf {m : Memory CvValue} (s : Slot) (o : Fin 3) (v : CvValue)
    (h : Memory.wf Config.unlistedCv 96 m = true) :
    Memory.wf Config.unlistedCv 96 (cvWrite m s o v) = true :=
  Memory.wf_write _ v (cvAddr_lt s o) h

theorem gtWrite_wf {m : Memory TriState} (s : Slot) (v : TriState)
    (h : Memory.wf Config.unlistedGate 32 m = true) :
    Memory.wf Config.unlistedGate 32 (gtWrite m s v) = true :=
  Memory.wf_write _ v (gtAddr_lt s) h

end Sys2Proof.Machine
end

