-- ==== Sys2Proof/Laws/Operands.lean ====
section
/-!
SUPPORT. The operand checks and the fields of a validated configuration word, on numbers
(30_encoding.md R74 to R77).
-/

namespace Sys2Proof.Machine

/-- A field of the configuration word as a quotient and a remainder. -/
theorem cfgField_eq (w : CfgWord) (lo len : Nat) :
    cfgField w lo len = w.toNat / 2 ^ lo % 2 ^ len := by
  simp only [cfgField, BitVec.extractLsb'_toNat, Nat.shiftRight_eq_div_pow]

theorem directionOf_eq_none_iff (k : Nat) : directionOf k = none ↔ 3 ≤ k := by
  rcases k with _ | _ | _ | k <;> simp [directionOf]

/-- The code of the direction a code names is that code (R76). -/
theorem directionCode_of_directionOf {k : Nat} {d : Direction} (h : directionOf k = some d) :
    (directionCode d).toNat = k := by
  rcases k with _ | _ | _ | k <;> simp [directionOf] at h <;> subst h <;> rfl

/-- Validation refuses exactly the words whose direction code is 3 (R75, R76). -/
theorem validate_eq_none_iff (w : CfgWord) : validate w = none ↔ w.toNat / 64 % 4 = 3 := by
  have h : validate w = none ↔ directionOf (cfgField w 6 2) = none := by
    unfold validate
    split <;> simp_all
  rw [h, directionOf_eq_none_iff, cfgField_eq]
  omega

/-- The fields a validated word stores (R75). -/
theorem validate_fields {w : CfgWord} {c : GateCfg} (h : validate w = some c) :
    c.seq.length.toNat = min (max (w.toNat % 64) 1) 32 ∧
    (directionCode c.seq.direction).toNat = w.toNat / 64 % 4 ∧
    c.seq.splitPoint.toNat = w.toNat / 2 ^ 8 % 32 ∧
    c.seq.sec1Reps.toNat = min (max (w.toNat / 2 ^ 13 % 128) 1) 99 ∧
    c.seq.sec2Reps.toNat = min (max (w.toNat / 2 ^ 20 % 128) 1) 99 ∧
    c.fillStart.toNat = min (w.toNat / 2 ^ 27 % 64) 32 ∧
    (c.running = true ↔ w.toNat / 2 ^ 33 % 2 = 1) := by
  unfold validate at h
  split at h
  · cases h
  · rename_i d hd
    cases h
    have := directionCode_of_directionOf hd
    simp only [cfgField_eq] at this ⊢
    simp only [BitVec.toNat_ofNat, beq_iff_eq]
    refine ⟨?_, by simpa using this, ?_, ?_, ?_, ?_, ?_⟩ <;> omega

/-- A tri-state code is refused exactly above 2 (R77). -/
theorem triStateOf_eq_none_iff (v : Code) : triStateOf v = none ↔ 2 < v.toNat := by
  unfold triStateOf
  generalize v.toNat = q
  rcases q with _ | _ | _ | q <;> simp

theorem triStateOf_eq_some {v : Code} {x : TriState} (h : triStateOf v = some x) :
    x = if v.toNat = 0 then .off else if v.toNat = 1 then .normal else .accent := by
  unfold triStateOf at h
  generalize v.toNat = q at *
  rcases q with _ | _ | _ | q <;> simp at h ⊢ <;> exact h.symm

/-- The codes of R77 are read back. -/
@[simp] theorem triStateOf_triStateCode (x : TriState) : triStateOf (triStateCode x) = some x := by
  cases x <;> rfl

/-- `WellFormed` is the operand check of the configuration writes. -/
theorem cfg_wellFormed_iff (w : CfgWord) :
    ((w >>> 6) % 4#64 != 3#64) = true ↔ validate w ≠ none := by
  rw [Ne, validate_eq_none_iff]
  simp only [bne_iff_ne, ne_eq, ← BitVec.toNat_inj, BitVec.toNat_umod, BitVec.toNat_ushiftRight,
    Nat.shiftRight_eq_div_pow]
  rfl

end Sys2Proof.Machine
end

