-- ==== Sys2Proof/Laws/State.lean ====
section
/-!
SUPPORT. One lemma per field per update of the state, so that no proof unfolds a record update, and
what the folds over the engines do to each engine.
-/

namespace Sys2Proof.Machine

/-! ### The registers outside the engines -/

section Registers

variable (s : State) (i : Fin 3) (t : Fin 6) (v : Sample) (m : Option RefusalMark)
  (r : Option Result) (p : List Operation)

@[simp] theorem setPrevClk_prevClk : (s.setPrevClk v).prevClk = v := rfl
@[simp] theorem setPrevClk_prevRst : (s.setPrevClk v).prevRst = s.prevRst := rfl
@[simp] theorem setPrevClk_cv : (s.setPrevClk v).cv = s.cv := rfl
@[simp] theorem setPrevClk_gt : (s.setPrevClk v).gt = s.gt := rfl
@[simp] theorem setPrevClk_refused : (s.setPrevClk v).refused = s.refused := rfl
@[simp] theorem setPrevClk_result : (s.setPrevClk v).result = s.result := rfl
@[simp] theorem setPrevClk_pending : (s.setPrevClk v).pending = s.pending := rfl
@[simp] theorem setPrevClk_cvEngine : (s.setPrevClk v).cvEngine i = s.cvEngine i := rfl
@[simp] theorem setPrevClk_gtTrack : (s.setPrevClk v).gtTrack t = s.gtTrack t := rfl

@[simp] theorem setPrevRst_prevClk : (s.setPrevRst v).prevClk = s.prevClk := rfl
@[simp] theorem setPrevRst_prevRst : (s.setPrevRst v).prevRst = v := rfl
@[simp] theorem setPrevRst_cv : (s.setPrevRst v).cv = s.cv := rfl
@[simp] theorem setPrevRst_gt : (s.setPrevRst v).gt = s.gt := rfl
@[simp] theorem setPrevRst_refused : (s.setPrevRst v).refused = s.refused := rfl
@[simp] theorem setPrevRst_result : (s.setPrevRst v).result = s.result := rfl
@[simp] theorem setPrevRst_pending : (s.setPrevRst v).pending = s.pending := rfl
@[simp] theorem setPrevRst_cvEngine : (s.setPrevRst v).cvEngine i = s.cvEngine i := rfl
@[simp] theorem setPrevRst_gtTrack : (s.setPrevRst v).gtTrack t = s.gtTrack t := rfl

@[simp] theorem setRefused_prevClk : (s.setRefused m).prevClk = s.prevClk := rfl
@[simp] theorem setRefused_prevRst : (s.setRefused m).prevRst = s.prevRst := rfl
@[simp] theorem setRefused_cv : (s.setRefused m).cv = s.cv := rfl
@[simp] theorem setRefused_gt : (s.setRefused m).gt = s.gt := rfl
@[simp] theorem setRefused_refused : (s.setRefused m).refused = m := rfl
@[simp] theorem setRefused_result : (s.setRefused m).result = s.result := rfl
@[simp] theorem setRefused_pending : (s.setRefused m).pending = s.pending := rfl
@[simp] theorem setRefused_cvEngine : (s.setRefused m).cvEngine i = s.cvEngine i := rfl
@[simp] theorem setRefused_gtTrack : (s.setRefused m).gtTrack t = s.gtTrack t := rfl

@[simp] theorem setResult_prevClk : (s.setResult r).prevClk = s.prevClk := rfl
@[simp] theorem setResult_prevRst : (s.setResult r).prevRst = s.prevRst := rfl
@[simp] theorem setResult_cv : (s.setResult r).cv = s.cv := rfl
@[simp] theorem setResult_gt : (s.setResult r).gt = s.gt := rfl
@[simp] theorem setResult_refused : (s.setResult r).refused = s.refused := rfl
@[simp] theorem setResult_result : (s.setResult r).result = r := rfl
@[simp] theorem setResult_pending : (s.setResult r).pending = s.pending := rfl
@[simp] theorem setResult_cvEngine : (s.setResult r).cvEngine i = s.cvEngine i := rfl
@[simp] theorem setResult_gtTrack : (s.setResult r).gtTrack t = s.gtTrack t := rfl

@[simp] theorem setPending_prevClk : (s.setPending p).prevClk = s.prevClk := rfl
@[simp] theorem setPending_prevRst : (s.setPending p).prevRst = s.prevRst := rfl
@[simp] theorem setPending_cv : (s.setPending p).cv = s.cv := rfl
@[simp] theorem setPending_gt : (s.setPending p).gt = s.gt := rfl
@[simp] theorem setPending_refused : (s.setPending p).refused = s.refused := rfl
@[simp] theorem setPending_result : (s.setPending p).result = s.result := rfl
@[simp] theorem setPending_pending : (s.setPending p).pending = p := rfl
@[simp] theorem setPending_cvEngine : (s.setPending p).cvEngine i = s.cvEngine i := rfl
@[simp] theorem setPending_gtTrack : (s.setPending p).gtTrack t = s.gtTrack t := rfl

end Registers

/-! ### Replacing an engine -/

section Set

variable (s : State) (i j : Fin 3) (t u : Fin 6) (e : CvEngine) (g : GateTrack)

@[simp] theorem setCv_prevClk : (s.setCv i e).prevClk = s.prevClk := rfl
@[simp] theorem setCv_prevRst : (s.setCv i e).prevRst = s.prevRst := rfl
@[simp] theorem setCv_gt : (s.setCv i e).gt = s.gt := rfl
@[simp] theorem setCv_gtTrack : (s.setCv i e).gtTrack t = s.gtTrack t := rfl
@[simp] theorem setCv_refused : (s.setCv i e).refused = s.refused := rfl
@[simp] theorem setCv_result : (s.setCv i e).result = s.result := rfl
@[simp] theorem setCv_pending : (s.setCv i e).pending = s.pending := rfl

@[simp] theorem setCv_cvEngine_self : (s.setCv i e).cvEngine i = e := by
  simp [State.setCv, State.cvEngine]

theorem setCv_cvEngine : (s.setCv i e).cvEngine j = if j = i then e else s.cvEngine j := by
  by_cases h : j = i
  · subst h; simp
  · have : i.val ≠ j.val := fun hv => h (Fin.ext hv.symm)
    simp [State.setCv, State.cvEngine, h, this]

theorem setCv_cvEngine_ne (h : j ≠ i) : (s.setCv i e).cvEngine j = s.cvEngine j := by
  rw [setCv_cvEngine, if_neg h]

@[simp] theorem setGt_prevClk : (s.setGt t g).prevClk = s.prevClk := rfl
@[simp] theorem setGt_prevRst : (s.setGt t g).prevRst = s.prevRst := rfl
@[simp] theorem setGt_cv : (s.setGt t g).cv = s.cv := rfl
@[simp] theorem setGt_cvEngine : (s.setGt t g).cvEngine i = s.cvEngine i := rfl
@[simp] theorem setGt_refused : (s.setGt t g).refused = s.refused := rfl
@[simp] theorem setGt_result : (s.setGt t g).result = s.result := rfl
@[simp] theorem setGt_pending : (s.setGt t g).pending = s.pending := rfl

@[simp] theorem setGt_gtTrack_self : (s.setGt t g).gtTrack t = g := by
  simp [State.setGt, State.gtTrack]

theorem setGt_gtTrack : (s.setGt t g).gtTrack u = if u = t then g else s.gtTrack u := by
  by_cases h : u = t
  · subst h; simp
  · have : t.val ≠ u.val := fun hv => h (Fin.ext hv.symm)
    simp [State.setGt, State.gtTrack, h, this]

theorem setGt_gtTrack_ne (h : u ≠ t) : (s.setGt t g).gtTrack u = s.gtTrack u := by
  rw [setGt_gtTrack, if_neg h]

end Set

/-! ### Applying a rule to one engine -/

section Upd

variable (s : State) (i j : Fin 3) (t u : Fin 6) (f : CvEngine → CvEngine)
  (h : GateTrack → GateTrack)

@[simp] theorem updCv_prevClk : (s.updCv i f).prevClk = s.prevClk := rfl
@[simp] theorem updCv_prevRst : (s.updCv i f).prevRst = s.prevRst := rfl
@[simp] theorem updCv_gt : (s.updCv i f).gt = s.gt := rfl
@[simp] theorem updCv_gtTrack : (s.updCv i f).gtTrack t = s.gtTrack t := rfl
@[simp] theorem updCv_refused : (s.updCv i f).refused = s.refused := rfl
@[simp] theorem updCv_result : (s.updCv i f).result = s.result := rfl
@[simp] theorem updCv_pending : (s.updCv i f).pending = s.pending := rfl

theorem updCv_cvEngine :
    (s.updCv i f).cvEngine j = if j = i then f (s.cvEngine j) else s.cvEngine j := by
  unfold State.updCv
  rw [setCv_cvEngine]
  split <;> simp_all

@[simp] theorem updGt_prevClk : (s.updGt t h).prevClk = s.prevClk := rfl
@[simp] theorem updGt_prevRst : (s.updGt t h).prevRst = s.prevRst := rfl
@[simp] theorem updGt_cv : (s.updGt t h).cv = s.cv := rfl
@[simp] theorem updGt_cvEngine : (s.updGt t h).cvEngine i = s.cvEngine i := rfl
@[simp] theorem updGt_refused : (s.updGt t h).refused = s.refused := rfl
@[simp] theorem updGt_result : (s.updGt t h).result = s.result := rfl
@[simp] theorem updGt_pending : (s.updGt t h).pending = s.pending := rfl

theorem updGt_gtTrack :
    (s.updGt t h).gtTrack u = if u = t then h (s.gtTrack u) else s.gtTrack u := by
  unfold State.updGt
  rw [setGt_gtTrack]
  split <;> simp_all

end Upd

/-! ### Applying a rule to every engine of a list -/

section Folds

variable (s : State) (i : Fin 3) (t : Fin 6) (ts : List (Fin 6)) (es : List EngineId)
  (f : CvEngine → CvEngine) (h : GateTrack → GateTrack)

/-- A fold of gate updates leaves everything but the gate tracks alone. -/
theorem forGt_frame :
    (s.forGt ts h).prevClk = s.prevClk ∧ (s.forGt ts h).prevRst = s.prevRst ∧
      (s.forGt ts h).cv = s.cv ∧ (s.forGt ts h).refused = s.refused ∧
      (s.forGt ts h).result = s.result ∧ (s.forGt ts h).pending = s.pending := by
  unfold State.forGt
  induction ts generalizing s with
  | nil => simp
  | cons j ts ih => simpa using ih (s.updGt j h)

@[simp] theorem forGt_prevClk : (s.forGt ts h).prevClk = s.prevClk := (forGt_frame s ts h).1
@[simp] theorem forGt_prevRst : (s.forGt ts h).prevRst = s.prevRst := (forGt_frame s ts h).2.1
@[simp] theorem forGt_cv : (s.forGt ts h).cv = s.cv := (forGt_frame s ts h).2.2.1
@[simp] theorem forGt_refused : (s.forGt ts h).refused = s.refused := (forGt_frame s ts h).2.2.2.1
@[simp] theorem forGt_result : (s.forGt ts h).result = s.result := (forGt_frame s ts h).2.2.2.2.1
@[simp] theorem forGt_pending : (s.forGt ts h).pending = s.pending :=
  (forGt_frame s ts h).2.2.2.2.2

@[simp] theorem forGt_cvEngine : (s.forGt ts h).cvEngine i = s.cvEngine i := by
  simp [State.cvEngine]

/-- Each track of a list without repeats gets the rule once; every other keeps its value. -/
theorem forGt_gtTrack (hn : ts.Nodup) :
    (s.forGt ts h).gtTrack t = if t ∈ ts then h (s.gtTrack t) else s.gtTrack t := by
  unfold State.forGt
  induction ts generalizing s with
  | nil => simp
  | cons j ts ih =>
    obtain ⟨hj, hn⟩ := List.nodup_cons.mp hn
    simp only [List.foldl_cons]
    rw [ih (s.updGt j h) hn, updGt_gtTrack]
    by_cases htj : t = j
    · subst htj; simp [hj]
    · simp [htj]

@[simp] theorem forGt_gtOrder_gtTrack : (s.forGt gtOrder h).gtTrack t = h (s.gtTrack t) := by
  rw [forGt_gtTrack _ _ _ _ (by decide), if_pos (by revert t; decide)]

/-- A fold over engines leaves everything but the engines alone. -/
theorem forEngines_frame :
    (s.forEngines es f h).prevClk = s.prevClk ∧ (s.forEngines es f h).prevRst = s.prevRst ∧
      (s.forEngines es f h).refused = s.refused ∧ (s.forEngines es f h).result = s.result ∧
      (s.forEngines es f h).pending = s.pending := by
  unfold State.forEngines
  induction es generalizing s with
  | nil => simp
  | cons e es ih =>
    cases e with
    | cv j => simpa [State.updEngine] using ih (s.updCv j f)
    | gt j => simpa [State.updEngine] using ih (s.updGt j h)

@[simp] theorem forEngines_prevClk : (s.forEngines es f h).prevClk = s.prevClk :=
  (forEngines_frame s es f h).1
@[simp] theorem forEngines_prevRst : (s.forEngines es f h).prevRst = s.prevRst :=
  (forEngines_frame s es f h).2.1
@[simp] theorem forEngines_refused : (s.forEngines es f h).refused = s.refused :=
  (forEngines_frame s es f h).2.2.1
@[simp] theorem forEngines_result : (s.forEngines es f h).result = s.result :=
  (forEngines_frame s es f h).2.2.2.1
@[simp] theorem forEngines_pending : (s.forEngines es f h).pending = s.pending :=
  (forEngines_frame s es f h).2.2.2.2

/-- Each engine of a list without repeats gets the rule of its kind once; every other keeps its
value. -/
theorem forEngines_engines (hn : es.Nodup) :
    ((s.forEngines es f h).cvEngine i =
      if .cv i ∈ es then f (s.cvEngine i) else s.cvEngine i) ∧
    (s.forEngines es f h).gtTrack t =
      if .gt t ∈ es then h (s.gtTrack t) else s.gtTrack t := by
  unfold State.forEngines
  induction es generalizing s with
  | nil => simp
  | cons e es ih =>
    obtain ⟨he, hn⟩ := List.nodup_cons.mp hn
    simp only [List.foldl_cons]
    rw [(ih (s.updEngine f h e) hn).1, (ih (s.updEngine f h e) hn).2]
    cases e with
    | cv j =>
      simp only [State.updEngine, updCv_cvEngine, updCv_gtTrack]
      by_cases hij : i = j
      · subst hij; simp [he]
      · simp [hij]
    | gt j =>
      simp only [State.updEngine, updGt_gtTrack, updGt_cvEngine]
      by_cases htj : t = j
      · subst htj; simp [he]
      · simp [htj]

end Folds

/-! ### How an operation ends -/

section Ends

variable (s : State) (w : OpWord) (r : Reason) (v : Result)

theorem done_eq : done s = .next (s.setResult none) := rfl

theorem answer_eq : answer v s = .next (s.setResult (some v)) := rfl

@[simp] theorem refuse_prevClk : (refuse w r s).prevClk = s.prevClk := rfl
@[simp] theorem refuse_prevRst : (refuse w r s).prevRst = s.prevRst := rfl
@[simp] theorem refuse_cv : (refuse w r s).cv = s.cv := rfl
@[simp] theorem refuse_gt : (refuse w r s).gt = s.gt := rfl
@[simp] theorem refuse_cvEngine (i : Fin 3) : (refuse w r s).cvEngine i = s.cvEngine i := rfl
@[simp] theorem refuse_gtTrack (t : Fin 6) : (refuse w r s).gtTrack t = s.gtTrack t := rfl
@[simp] theorem refuse_refused : (refuse w r s).refused = some ⟨w, r⟩ := rfl
@[simp] theorem refuse_result : (refuse w r s).result = none := rfl
@[simp] theorem refuse_pending : (refuse w r s).pending = s.pending := rfl

end Ends

/-- Two states with the same engines and the same interface are the same state. -/
theorem state_ext {s s' : State} (hc : s.prevClk = s'.prevClk) (hr : s.prevRst = s'.prevRst)
    (hcv : ∀ i, s.cvEngine i = s'.cvEngine i) (hgt : ∀ t, s.gtTrack t = s'.gtTrack t)
    (hm : s.refused = s'.refused) (hres : s.result = s'.result)
    (hp : s.pending = s'.pending) : s = s' := by
  have hcv' : s.cv = s'.cv := Vector.ext fun k hk => hcv ⟨k, hk⟩
  have hgt' : s.gt = s'.gt := Vector.ext fun k hk => hgt ⟨k, hk⟩
  cases s; cases s'; simp_all

end Sys2Proof.Machine
end

