-- ==== Sys2Proof/Laws/Tick.lean ====
section
/-!
SUPPORT. What one evaluation cycle does, once: to each engine, whatever the order of the visits, and
to the rest of the state (43_dispatcher.md R200 to R204).
-/

namespace Sys2Proof.Machine

/-- The clock edge of a cycle (R201). -/
abbrev clockEdge (s : State) (clk : Sample) : Bool := rising s.prevClk clk

/-- The reset edge of a cycle (R201). -/
abbrev resetEdge (s : State) (rst : Sample) : Bool := rising s.prevRst rst

section

variable (es : List EngineId) (clk rst : Sample) (n : U32) (s : State)

@[simp] theorem tickIn_prevClk : (tickIn es clk rst n s).prevClk = clk := by
  simp [tickIn, evaluateClk, evaluateRst]

@[simp] theorem tickIn_prevRst : (tickIn es clk rst n s).prevRst = rst := by
  simp [tickIn, evaluateClk, evaluateRst]

@[simp] theorem tickIn_refused : (tickIn es clk rst n s).refused = s.refused := by
  simp [tickIn, evaluateClk, evaluateRst]

@[simp] theorem tickIn_result : (tickIn es clk rst n s).result = s.result := by
  simp [tickIn, evaluateClk, evaluateRst]

@[simp] theorem tickIn_pending : (tickIn es clk rst n s).pending = s.pending := by
  simp [tickIn, evaluateClk, evaluateRst]

/-- Every CV engine of a list without repeats gets the edges once. -/
theorem tickIn_cvEngine_of_nodup (hn : es.Nodup) (i : Fin 3) :
    (tickIn es clk rst n s).cvEngine i =
      if .cv i ∈ es then
        dispatchCv Config.coincidentOrder Config.backwardSections (clockEdge s clk)
          (resetEdge s rst) (s.cvEngine i)
      else s.cvEngine i := by
  simp only [tickIn, evaluateClk, evaluateRst]
  rw [(forEngines_engines _ i 0 _ _ _ hn).1]
  simp only [forGt_cvEngine]
  rfl

/-- Every gate track decays, and each one of a list without repeats then gets the edges once. -/
theorem tickIn_gtTrack_of_nodup (hn : es.Nodup) (t : Fin 6) :
    (tickIn es clk rst n s).gtTrack t =
      if .gt t ∈ es then
        dispatchGt Config.coincidentOrder Config.backwardSections Config.pulseSamples
          (clockEdge s clk) (resetEdge s rst) (gateDecay n (s.gtTrack t))
      else gateDecay n (s.gtTrack t) := by
  simp only [tickIn, evaluateClk, evaluateRst]
  rw [(forEngines_engines _ 0 t _ _ _ hn).2]
  simp only [forGt_gtOrder_gtTrack]
  rfl

@[simp] theorem tickIn_cvEngine (i : Fin 3) :
    (tickIn engineOrder clk rst n s).cvEngine i =
      dispatchCv Config.coincidentOrder Config.backwardSections (clockEdge s clk)
        (resetEdge s rst) (s.cvEngine i) := by
  rw [tickIn_cvEngine_of_nodup _ _ _ _ _ (by decide), if_pos (by revert i; decide)]

@[simp] theorem tickIn_gtTrack (t : Fin 6) :
    (tickIn engineOrder clk rst n s).gtTrack t =
      dispatchGt Config.coincidentOrder Config.backwardSections Config.pulseSamples
        (clockEdge s clk) (resetEdge s rst) (gateDecay n (s.gtTrack t)) := by
  rw [tickIn_gtTrack_of_nodup _ _ _ _ _ (by decide), if_pos (by revert t; decide)]

end

/-! ### The dispatch rules keep configuration and table -/

section

variable (o : CoincidentOrder) (b : BackwardSections) (p : U32) (ce re : Bool) (e : CvEngine)
  (g : GateTrack)

@[simp] theorem cvAdvance_cfg : (cvAdvance b e).cfg = e.cfg := rfl
@[simp] theorem cvAdvance_pat : (cvAdvance b e).pat = e.pat := rfl
@[simp] theorem cvAdvance_rt : (cvAdvance b e).rt = advanceCv b e.cfg e.rt := rfl
@[simp] theorem cvReset_cfg : (cvReset e).cfg = e.cfg := rfl
@[simp] theorem cvReset_pat : (cvReset e).pat = e.pat := rfl
@[simp] theorem cvReset_rt : (cvReset e).rt = resetEngine e.cfg e.rt := rfl

@[simp] theorem triggerSet_cfg : (triggerSet p g).cfg = g.cfg := by
  unfold triggerSet; split <;> rfl
@[simp] theorem triggerSet_rt : (triggerSet p g).rt = g.rt := by
  unfold triggerSet; split <;> rfl
@[simp] theorem triggerSet_pat : (triggerSet p g).pat = g.pat := by
  unfold triggerSet; split <;> rfl
theorem triggerSet_tc : (triggerSet p g).tc =
    if gtRead g.pat g.rt.step = .off then g.tc else p := by
  unfold triggerSet nonOff
  by_cases h : gtRead g.pat g.rt.step = .off <;> simp [h]

@[simp] theorem gateAdvance_cfg : (gateAdvance b p g).cfg = g.cfg := by
  unfold gateAdvance; split <;> simp
@[simp] theorem gateAdvance_pat : (gateAdvance b p g).pat = g.pat := by
  unfold gateAdvance; split <;> simp
theorem gateAdvance_rt : (gateAdvance b p g).rt =
    if g.cfg.running then advanceGate b g.cfg g.rt else g.rt := by
  unfold gateAdvance; split <;> simp
theorem gateAdvance_tc : (gateAdvance b p g).tc =
    if g.cfg.running ∧ gtRead g.pat (advanceGate b g.cfg g.rt).step ≠ .off then p else g.tc := by
  unfold gateAdvance
  cases g.cfg.running <;> simp [triggerSet_tc]

@[simp] theorem gateReset_cfg : (gateReset g).cfg = g.cfg := by
  unfold gateReset; split <;> rfl
@[simp] theorem gateReset_pat : (gateReset g).pat = g.pat := by
  unfold gateReset; split <;> rfl
@[simp] theorem gateReset_tc : (gateReset g).tc = g.tc := by
  unfold gateReset; split <;> rfl
theorem gateReset_rt : (gateReset g).rt =
    if g.cfg.running then resetEngine g.cfg.seq g.rt else g.rt := by
  unfold gateReset; split <;> simp_all

@[simp] theorem gateDecay_cfg (n : U32) : (gateDecay n g).cfg = g.cfg := rfl
@[simp] theorem gateDecay_rt (n : U32) : (gateDecay n g).rt = g.rt := rfl
@[simp] theorem gateDecay_pat (n : U32) : (gateDecay n g).pat = g.pat := rfl

/-- DECAY as saturating subtraction (00_scope.md R9). -/
theorem gateDecay_tc_toNat (n : U32) : (gateDecay n g).tc.toNat = g.tc.toNat - n.toNat := by
  have := g.tc.isLt
  simp only [gateDecay]
  split
  · rw [BitVec.toNat_sub_of_le (by simpa [BitVec.le_def] using ‹_›)]
  · simp only [BitVec.ofNat_eq_ofNat, BitVec.toNat_ofNat]; omega

@[simp] theorem dispatchCv_cfg : (dispatchCv o b ce re e).cfg = e.cfg := by
  cases o <;> cases ce <;> cases re <;> rfl
@[simp] theorem dispatchCv_pat : (dispatchCv o b ce re e).pat = e.pat := by
  cases o <;> cases ce <;> cases re <;> rfl
@[simp] theorem dispatchGt_cfg : (dispatchGt o b p ce re g).cfg = g.cfg := by
  cases o <;> cases ce <;> cases re <;> simp [dispatchGt]
@[simp] theorem dispatchGt_pat : (dispatchGt o b p ce re g).pat = g.pat := by
  cases o <;> cases ce <;> cases re <;> simp [dispatchGt]

end

/-! ### What the rules of an engine keep, the dispatch keeps -/

theorem dispatchCv_keeps {P : CvEngine → Prop} (hr : ∀ e, P e → P (cvReset e))
    (ha : ∀ b e, P e → P (cvAdvance b e)) (o : CoincidentOrder) (b : BackwardSections)
    (ce re : Bool) {e : CvEngine} (h : P e) : P (dispatchCv o b ce re e) := by
  unfold dispatchCv
  cases o <;> cases ce <;> cases re <;> simp_all

theorem dispatchGt_keeps {P : GateTrack → Prop} {p : U32} (hr : ∀ g, P g → P (gateReset g))
    (ha : ∀ b g, P g → P (gateAdvance b p g)) (o : CoincidentOrder) (b : BackwardSections)
    (ce re : Bool) {g : GateTrack} (h : P g) : P (dispatchGt o b p ce re g) := by
  unfold dispatchGt
  cases o <;> cases ce <;> cases re <;> simp_all

end Sys2Proof.Machine
end

