-- ==== Sys2Proof/Laws/Exec.lean ====
section
/-!
SUPPORT. What an operation can do to each part of the state, said once: later proofs case on these
lemmas and unfold neither `exec` nor `step`.
-/

namespace Sys2Proof.Machine

/-- What an operation can make of CV engine `i`. -/
inductive CvEffect (op : Instr) (s : State) (i : Fin 3) : CvEngine → Prop where
  | none : CvEffect op s i (s.cvEngine i)
  | adv (h : op = .cvAdv i) : CvEffect op s i (cvAdvance Config.backwardSections (s.cvEngine i))
  | rst (h : op = .cvRst i) : CvEffect op s i (cvReset (s.cvEngine i))
  | cfg (w : CfgWord) (c : GateCfg) (h : op = .cvCfg i w) (hv : validate w = some c) :
      CvEffect op s i (cvConfigure c (s.cvEngine i))
  | wrval (slot : Slot) (o : Fin 3) (v : CvValue) (h : op = .cvWrval i slot o v) :
      CvEffect op s i { s.cvEngine i with pat := cvWrite (s.cvEngine i).pat slot o v }
  | tick (clk rst : Sample) (n : U32) (h : op = .tick clk rst n) :
      CvEffect op s i (dispatchCv Config.coincidentOrder Config.backwardSections (clockEdge s clk)
        (resetEdge s rst) (s.cvEngine i))

/-- What an operation can make of gate track `t`. -/
inductive GtEffect (op : Instr) (s : State) (t : Fin 6) : GateTrack → Prop where
  | none : GtEffect op s t (s.gtTrack t)
  | adv (h : op = .gtAdv t) :
      GtEffect op s t (gateAdvance Config.backwardSections Config.pulseSamples (s.gtTrack t))
  | rst (h : op = .gtRst t) : GtEffect op s t (gateReset (s.gtTrack t))
  | decay (n : U32) (h : op = .gtDecay t n) : GtEffect op s t (gateDecay n (s.gtTrack t))
  | cfg (w : CfgWord) (c : GateCfg) (h : op = .gtCfg t w) (hv : validate w = some c) :
      GtEffect op s t (gateConfigure c (s.gtTrack t))
  | wrstate (slot : Slot) (v : Code) (x : TriState) (h : op = .gtWrstate t slot v)
      (hv : triStateOf v = some x) :
      GtEffect op s t { s.gtTrack t with pat := gtWrite (s.gtTrack t).pat slot x }
  | tick (clk rst : Sample) (n : U32) (h : op = .tick clk rst n) :
      GtEffect op s t (dispatchGt Config.coincidentOrder Config.backwardSections
        Config.pulseSamples (clockEdge s clk) (resetEdge s rst) (gateDecay n (s.gtTrack t)))

theorem updCv_effect {op : Instr} {s : State} {i j : Fin 3} {f : CvEngine → CvEngine}
    (h : i = j → CvEffect op s j (f (s.cvEngine j))) :
    CvEffect op s j ((s.updCv i f).cvEngine j) := by
  rw [updCv_cvEngine]
  split
  · exact h (Eq.symm ‹_›)
  · exact .none

theorem updGt_effect {op : Instr} {s : State} {t u : Fin 6} {f : GateTrack → GateTrack}
    (h : t = u → GtEffect op s u (f (s.gtTrack u))) :
    GtEffect op s u ((s.updGt t f).gtTrack u) := by
  rw [updGt_gtTrack]
  split
  · exact h (Eq.symm ‹_›)
  · exact .none

/-- An operation has one of the effects above on every CV engine. -/
theorem exec_cvEffect {op : Instr} {s t : State} (h : exec op s = .next t) (i : Fin 3) :
    CvEffect op s i (t.cvEngine i) := by
  cases op with
  | cvCfg j w =>
    simp only [exec, execCvCfg] at h
    split at h <;> injection h with h <;> subst h
    · exact .none
    · exact updCv_effect fun e => by subst e; exact .cfg _ _ rfl ‹_›
  | gtCfg j w =>
    simp only [exec, execGtCfg] at h
    split at h <;> injection h with h <;> subst h <;> exact .none
  | gtWrstate k sl v =>
    simp only [exec, execGtWrstate] at h
    split at h <;> injection h with h <;> subst h <;> exact .none
  | tick c r n =>
    injection h with h
    subst h
    rw [setResult_cvEngine, tickIn_cvEngine]
    exact .tick c r n rfl
  | cvAdv j => injection h with h; subst h; exact updCv_effect fun e => by subst e; exact .adv rfl
  | cvRst j => injection h with h; subst h; exact updCv_effect fun e => by subst e; exact .rst rfl
  | cvWrval j sl o v =>
    injection h with h
    subst h
    rw [setResult_cvEngine]
    exact updCv_effect fun e => by subst e; exact .wrval _ _ _ rfl
  | _ => injection h with h; subst h; exact .none

/-- An operation has one of the effects above on every gate track. -/
theorem exec_gtEffect {op : Instr} {s t : State} (h : exec op s = .next t) (k : Fin 6) :
    GtEffect op s k (t.gtTrack k) := by
  cases op with
  | cvCfg j w =>
    simp only [exec, execCvCfg] at h
    split at h <;> injection h with h <;> subst h <;> exact .none
  | gtCfg j w =>
    simp only [exec, execGtCfg] at h
    split at h <;> injection h with h <;> subst h
    · exact .none
    · exact updGt_effect fun e => by subst e; exact .cfg _ _ rfl ‹_›
  | gtWrstate j sl v =>
    simp only [exec, execGtWrstate] at h
    split at h <;> injection h with h <;> subst h
    · exact .none
    · rw [setResult_gtTrack]
      exact updGt_effect fun e => by subst e; exact .wrstate _ _ _ rfl ‹_›
  | tick c r n =>
    injection h with h
    subst h
    rw [setResult_gtTrack, tickIn_gtTrack]
    exact .tick c r n rfl
  | gtAdv j => injection h with h; subst h; exact updGt_effect fun e => by subst e; exact .adv rfl
  | gtRst j => injection h with h; subst h; exact updGt_effect fun e => by subst e; exact .rst rfl
  | gtDecay j n =>
    injection h with h
    subst h
    exact updGt_effect fun e => by subst e; exact .decay _ rfl
  | _ => injection h with h; subst h; exact .none

/-- An operation keeps the issued operations, and writes the edge memory only as an edge operation or
a tick does. -/
theorem exec_edgeMemory {op : Instr} {s t : State} (h : exec op s = .next t) :
    t.pending = s.pending ∧
    (t.prevClk = s.prevClk ∨ (∃ v, op = .edgeClk v ∧ t.prevClk = v) ∨
      ∃ c r n, op = .tick c r n ∧ t.prevClk = c) ∧
    (t.prevRst = s.prevRst ∨ (∃ v, op = .edgeRst v ∧ t.prevRst = v) ∨
      ∃ c r n, op = .tick c r n ∧ t.prevRst = r) := by
  cases op with
  | cvCfg j w =>
    simp only [exec, execCvCfg] at h
    split at h <;> injection h with h <;> subst h <;> simp
  | gtCfg j w =>
    simp only [exec, execGtCfg] at h
    split at h <;> injection h with h <;> subst h <;> simp
  | gtWrstate j sl v =>
    simp only [exec, execGtWrstate] at h
    split at h <;> injection h with h <;> subst h <;> simp
  | tick c r n => injection h with h; subst h; simp
  | edgeClk v => injection h with h; subst h; simp [evaluateClk]
  | edgeRst v => injection h with h; subst h; simp [evaluateRst]
  | _ => injection h with h; subst h; simp

/-- An operation that passes its operand check keeps the mark; one that fails it is refused with the
reason of that check. -/
theorem exec_mark {op : Instr} {s t : State} (h : exec op s = .next t) :
    (op.WellFormed = true → t.refused = s.refused) ∧
    (op.WellFormed = false → ∃ r, t = refuse (encodeWord op) r s ∧
      ((r = .badDirection ∧ ((∃ i w, op = .cvCfg i w ∧ w.toNat / 64 % 4 = 3) ∨
          ∃ k w, op = .gtCfg k w ∧ w.toNat / 64 % 4 = 3)) ∨
        (r = .badTriState ∧ ∃ k sl v, op = .gtWrstate k sl v ∧ 2 < v.toNat))) := by
  cases op with
  | cvCfg i w =>
    have h1 := cfg_wellFormed_iff w
    have h2 := validate_eq_none_iff w
    simp only [exec, execCvCfg] at h
    split at h <;> injection h with h <;> subst h <;> simp_all [Instr.WellFormed]
  | gtCfg i w =>
    have h1 := cfg_wellFormed_iff w
    have h2 := validate_eq_none_iff w
    simp only [exec, execGtCfg] at h
    split at h <;> injection h with h <;> subst h <;> simp_all [Instr.WellFormed]
  | gtWrstate k sl v =>
    have h2 := triStateOf_eq_none_iff v
    simp only [exec, execGtWrstate] at h
    split at h <;> injection h with h <;> subst h <;> simp_all [Instr.WellFormed]
  | tick c r n => injection h with h; subst h; simp [Instr.WellFormed]
  | edgeClk v => injection h with h; subst h; simp [Instr.WellFormed, evaluateClk]
  | edgeRst v => injection h with h; subst h; simp [Instr.WellFormed, evaluateRst]
  | _ => injection h with h; subst h; simp [Instr.WellFormed]

/-- An operation does not look at the operations issued after it. -/
theorem exec_setPending {op : Instr} {s t : State} (h : exec op s = .next t)
    (p : List Operation) : exec op (s.setPending p) = .next (t.setPending p) := by
  cases op with
  | cvCfg i w =>
    simp only [exec, execCvCfg] at *
    split at h <;> (injection h with h; subst h; rfl)
  | gtCfg i w =>
    simp only [exec, execGtCfg] at *
    split at h <;> (injection h with h; subst h; rfl)
  | gtWrstate k sl v =>
    simp only [exec, execGtWrstate] at *
    split at h <;> (injection h with h; subst h; rfl)
  | tick c r n =>
    injection h with h
    subst h
    refine congrArg Host.Outcome.next (state_ext ?_ ?_ ?_ ?_ ?_ ?_ ?_) <;>
      simp [clockEdge, resetEdge]
  | _ => injection h with h; subst h; rfl

/-! ### The step -/

theorem step_of_marked {s : State} {m : RefusalMark} (h : s.refused = some m) :
    step s = .refused (.markedRefused m.word m.reason) := by
  simp [step, h]

theorem step_of_issued {s : State} {o : Operation} {rest : List Operation} (h : s.refused = none)
    (hp : s.pending = o :: rest) :
    step s = match decode o.word o.operands with
      | .error r => .next (refuse o.word r (s.setPending rest))
      | .ok op => exec op (s.setPending rest) := by
  cases hd : decode o.word o.operands <;> simp [step, h, hp, hd]

/-- A step that answers a next state did nothing, refused the next word, or executed it. -/
theorem step_cases {s t : State} (h : step s = .next t) :
    t = s ∨ (∃ (o : Operation) (r : Reason) (rest : List Operation), decode o.word o.operands = .error r ∧
      t = refuse o.word r (s.setPending rest)) ∨
    ∃ (o : Operation) (op : Instr) (rest : List Operation), s.refused = none ∧ s.pending = o :: rest ∧
      decode o.word o.operands = .ok op ∧ exec op (s.setPending rest) = .next t := by
  cases hr : s.refused with
  | some m => rw [step_of_marked hr] at h; cases h
  | none =>
    cases hp : s.pending with
    | nil => simp only [step, hr, hp] at h; injection h with h; exact .inl h.symm
    | cons o rest =>
      rw [step_of_issued hr hp] at h
      cases hd : decode o.word o.operands with
      | error r => rw [hd] at h; injection h with h; exact .inr (.inl ⟨o, r, rest, hd, h.symm⟩)
      | ok op => rw [hd] at h; exact .inr (.inr ⟨o, op, rest, rfl, rfl, hd, h⟩)

/-- What holds of every engine, is kept by every effect on it, is kept by every step. -/
theorem step_keeps {P : CvEngine → Prop} {Q : GateTrack → Prop} {s t : State}
    (hP : ∀ op i e, CvEffect op s i e → P (s.cvEngine i) → P e)
    (hQ : ∀ op k g, GtEffect op s k g → Q (s.gtTrack k) → Q g) (h : step s = .next t)
    (hcv : ∀ i, P (s.cvEngine i)) (hgt : ∀ k, Q (s.gtTrack k)) :
    (∀ i, P (t.cvEngine i)) ∧ ∀ k, Q (t.gtTrack k) := by
  rcases step_cases h with rfl | ⟨o, r, rest, -, rfl⟩ | ⟨o, op, rest, -, -, -, he⟩
  · exact ⟨hcv, hgt⟩
  · exact ⟨hcv, hgt⟩
  · refine ⟨fun i => hP op i _ ?_ (hcv i), fun k => hQ op k _ ?_ (hgt k)⟩
    · have := exec_cvEffect he i
      generalize t.cvEngine i = e at this
      cases this with
      | none => exact .none
      | adv h => exact .adv h
      | rst h => exact .rst h
      | cfg w c h hv => exact .cfg w c h hv
      | wrval sl o v h => exact .wrval sl o v h
      | tick c r n h => exact .tick c r n h
    · have := exec_gtEffect he k
      generalize t.gtTrack k = g at this
      cases this with
      | none => exact .none
      | adv h => exact .adv h
      | rst h => exact .rst h
      | decay n h => exact .decay n h
      | cfg w c h hv => exact .cfg w c h hv
      | wrstate sl v x h hv => exact .wrstate sl v x h hv
      | tick c r n h => exact .tick c r n h

/-- A validated configuration is legal (R75). -/
theorem validate_legal {w : CfgWord} {c : GateCfg} (h : validate w = some c) : c.Legal := by
  have := validate_fields h
  unfold GateCfg.Legal SeqCfg.Legal
  omega

/-- A run whose first step answers a next state goes on from that state. -/
theorem run_succ {M : Host.Core} {k : Nat} {s t : M.State} (h : M.step s = .next t) :
    M.run (k + 1) s = M.run k t := by
  rw [Host.Core.run, h]

theorem core_run_succ {k : Nat} {s t : State} (h : step s = .next t) :
    Host.Core.run Sys2Proof.core (k + 1) s = Host.Core.run Sys2Proof.core k t :=
  run_succ (M := Sys2Proof.core) h

end Sys2Proof.Machine
end

