-- ==== Sys2Proof/Laws/PerInstr.lean ====
section
/-!
SUPPORT. The family `TableRow`: the word the encoder gives an operation is a word of that operation's
own row of the opcode table (30_encoding.md R78, spec/opcode_table.json). One lemma per constructor.
-/

namespace Sys2Proof.Laws.TableRow

/-- The encoder's word matches the row of the operation's mnemonic. -/
def Statement (op : Instr) : Prop :=
  ∃ r ∈ opcodeTable, r.mnemonic = op.mnemonic ∧ r.matchesWord (encodeWord op) = true

theorem tick (clk rst : Sample) (n : U32) : Statement (.tick clk rst n) := by
  refine ⟨⟨"tick", 0x0000, 0xFFFF⟩, by decide, rfl, ?_⟩
  change OpcodeRow.matchesWord _ (opWord 0x0 0 0 0) = true
  decide

theorem edgeClk (v : Sample) : Statement (.edgeClk v) := by
  refine ⟨⟨"edge.clk", 0x1000, 0xFFFF⟩, by decide, rfl, ?_⟩
  change OpcodeRow.matchesWord _ (opWord 0x1 0 0 0) = true
  decide

theorem edgeRst (v : Sample) : Statement (.edgeRst v) := by
  refine ⟨⟨"edge.rst", 0x1004, 0xFFFF⟩, by decide, rfl, ?_⟩
  change OpcodeRow.matchesWord _ (opWord 0x1 0 0 1) = true
  decide

theorem cvCfg (i : Fin 3) (cfg : CfgWord) : Statement (.cvCfg i cfg) := by
  refine ⟨⟨"cv.cfg", 0x2000, 0xF1FF⟩, by decide, rfl, ?_⟩
  change OpcodeRow.matchesWord _ (opWord 0x2 (fin3Inst i) 0 0) = true
  revert i; decide

theorem cvAdv (i : Fin 3) : Statement (.cvAdv i) := by
  refine ⟨⟨"cv.adv", 0x3000, 0xF1FF⟩, by decide, rfl, ?_⟩
  revert i; decide

theorem cvRst (i : Fin 3) : Statement (.cvRst i) := by
  refine ⟨⟨"cv.rst", 0x4000, 0xF1FF⟩, by decide, rfl, ?_⟩
  revert i; decide

theorem cvRdstep (i : Fin 3) : Statement (.cvRdstep i) := by
  refine ⟨⟨"cv.rdstep", 0x5000, 0xF1FF⟩, by decide, rfl, ?_⟩
  revert i; decide

theorem cvRdval (i : Fin 3) (s : Slot) (o : Fin 3) : Statement (.cvRdval i s o) := by
  refine ⟨⟨"cv.rdval", 0x6000, 0xF003⟩, by decide, rfl, ?_⟩
  revert i s o; decide

theorem cvWrval (i : Fin 3) (s : Slot) (o : Fin 3) (v : CvValue) : Statement (.cvWrval i s o v) := by
  refine ⟨⟨"cv.wrval", 0x7000, 0xF003⟩, by decide, rfl, ?_⟩
  change OpcodeRow.matchesWord _ (opWord 0x7 (fin3Inst i) s (outSel o)) = true
  revert i s o; decide

theorem gtCfg (t : Fin 6) (cfg : CfgWord) : Statement (.gtCfg t cfg) := by
  refine ⟨⟨"gt.cfg", 0x8000, 0xF1FF⟩, by decide, rfl, ?_⟩
  change OpcodeRow.matchesWord _ (opWord 0x8 (fin6Inst t) 0 0) = true
  revert t; decide

theorem gtAdv (t : Fin 6) : Statement (.gtAdv t) := by
  refine ⟨⟨"gt.adv", 0x9000, 0xF1FF⟩, by decide, rfl, ?_⟩
  revert t; decide

theorem gtRst (t : Fin 6) : Statement (.gtRst t) := by
  refine ⟨⟨"gt.rst", 0xA000, 0xF1FF⟩, by decide, rfl, ?_⟩
  revert t; decide

theorem gtDecay (t : Fin 6) (n : U32) : Statement (.gtDecay t n) := by
  refine ⟨⟨"gt.decay", 0xB000, 0xF1FF⟩, by decide, rfl, ?_⟩
  change OpcodeRow.matchesWord _ (opWord 0xB (fin6Inst t) 0 0) = true
  revert t; decide

theorem gtRdstep (t : Fin 6) : Statement (.gtRdstep t) := by
  refine ⟨⟨"gt.rdstep", 0xC000, 0xF1FF⟩, by decide, rfl, ?_⟩
  revert t; decide

theorem gtRdstate (t : Fin 6) (s : Slot) : Statement (.gtRdstate t s) := by
  refine ⟨⟨"gt.rdstate", 0xD000, 0xF00F⟩, by decide, rfl, ?_⟩
  revert t s; decide

theorem gtRdtrig (t : Fin 6) : Statement (.gtRdtrig t) := by
  refine ⟨⟨"gt.rdtrig", 0xE000, 0xF1FF⟩, by decide, rfl, ?_⟩
  revert t; decide

theorem gtWrstate (t : Fin 6) (s : Slot) (v : Code) : Statement (.gtWrstate t s v) := by
  refine ⟨⟨"gt.wrstate", 0xF000, 0xF00F⟩, by decide, rfl, ?_⟩
  change OpcodeRow.matchesWord _ (opWord 0xF (fin6Inst t) s 0) = true
  revert t s; decide

end Sys2Proof.Laws.TableRow
end

