-- ==== Sys2Proof/Tests/Slice0.lean ====
section
/-!
SUPPORT. The model's own tests. Every expected value is a row of 95_test_vectors.md, a worked encoding
of 30_encoding.md R83 or an example of an operation's rule, named at the test. After them, for every
statement with hypotheses, a concrete state and operands that meet all of them.
-/

open Sys2Proof Sys2Proof.Machine Sys2Proof.Claims

namespace Sys2Proof.Tests

/-! ### Helpers -/

/-- The stored configuration of `cfg(...)`. -/
def cfgOf (k : CfgKeys) : GateCfg := (validate (assembleCfg k)).getD GateCfg.poweron

/-- The reset state with CV engine `i` configured, at the given runtime registers. -/
def cvAt (i : Fin 3) (k : CfgKeys) (r : Runtime) : State :=
  State.reset.setCv i { cfg := (cfgOf k).seq, rt := r, pat := [] }

/-- The reset state with gate track `t` configured, at the given runtime registers, trigger counter
and table. -/
def gtAt (t : Fin 6) (k : CfgKeys) (r : Runtime) (tc : U32) (pat : Memory TriState) : State :=
  State.reset.setGt t { cfg := cfgOf k, rt := r, tc := tc, pat := pat }

/-- The next state of an outcome. -/
def after : Out → State
  | .next s => s
  | .fault _ => State.reset
  | .refused _ => State.reset

/-- The runtime registers of CV engine `i` after an operation. -/
def cvRt (op : Instr) (i : Fin 3) (s : State) : Runtime := ((after (exec op s)).cvEngine i).rt

/-- The runtime registers of gate track `t` after an operation. -/
def gtRt (op : Instr) (t : Fin 6) (s : State) : Runtime := ((after (exec op s)).gtTrack t).rt

/-- The reset state with one operation issued. -/
def issue (w : OpWord) (x : Operands) : State := State.reset.setPending [⟨w, x⟩]

/-- Step 0, or another, of a fresh section 1. -/
def at0 (step : Slot) : Runtime := ⟨step, true, 0, 0, false⟩

def half : Sample := 0x3F000000

def nan : Sample := 0x7FC00000

/-! ### WellFormed refuses what step 4 of R79 refuses -/

theorem test_wellFormed_refuses_cv_direction_3 :
    (Instr.cvCfg 0 0x00000002001020C4).WellFormed = false := by
  decide

theorem test_wellFormed_refuses_gt_direction_3 : (Instr.gtCfg 5 0xC4).WellFormed = false := by decide

theorem test_wellFormed_refuses_tri_state_3 : (Instr.gtWrstate 0 0 3).WellFormed = false := by decide

theorem test_wellFormed_accepts :
    (Instr.cvCfg 0 0x0003FFFE00102008).WellFormed = true ∧
      (Instr.gtCfg 0 0xFFFFFFFFFFFFFFBF).WellFormed = true ∧
      (Instr.gtWrstate 5 31 2).WellFormed = true := by decide

/-! ### Decoding, by words written out from R70 and R78 (95_test_vectors.md, Encodings) -/

theorem test_decode_tick : decodeTableWord 16 0x0000 = some (.tick 0 0 0) := by decide
theorem test_decode_edge_clk : decodeTableWord 16 0x1000 = some (.edgeClk 0) := by decide
theorem test_decode_edge_rst : decodeTableWord 16 0x1004 = some (.edgeRst 0) := by decide
theorem test_decode_cv_cfg : decodeTableWord 16 0x2200 = some (.cvCfg 1 0) := by decide
theorem test_decode_cv_adv : decodeTableWord 16 0x3400 = some (.cvAdv 2) := by decide
theorem test_decode_cv_rst : decodeTableWord 16 0x4200 = some (.cvRst 1) := by decide
theorem test_decode_cv_rdstep : decodeTableWord 16 0x5200 = some (.cvRdstep 1) := by decide
theorem test_decode_cv_rdval : decodeTableWord 16 0x65F8 = some (.cvRdval 2 31 2) := by decide
theorem test_decode_cv_wrval : decodeTableWord 16 0x7010 = some (.cvWrval 0 1 0 0) := by decide
theorem test_decode_gt_cfg : decodeTableWord 16 0x8000 = some (.gtCfg 0 0) := by decide
theorem test_decode_gt_adv : decodeTableWord 16 0x9A00 = some (.gtAdv 5) := by decide
theorem test_decode_gt_rst : decodeTableWord 16 0xA400 = some (.gtRst 2) := by decide
theorem test_decode_gt_decay : decodeTableWord 16 0xB600 = some (.gtDecay 3 0) := by decide
theorem test_decode_gt_rdstep : decodeTableWord 16 0xC800 = some (.gtRdstep 4) := by decide
theorem test_decode_gt_rdstate : decodeTableWord 16 0xD690 = some (.gtRdstate 3 9) := by decide
theorem test_decode_gt_rdtrig : decodeTableWord 16 0xE000 = some (.gtRdtrig 0) := by decide
theorem test_decode_gt_wrstate : decodeTableWord 16 0xF080 = some (.gtWrstate 0 8 0) := by decide

/-- REF-1 to REF-13 of 95_test_vectors.md, and word 0x3E01 of R222. -/
theorem test_decode_refusals :
    [0x0001, 0x0200, 0x1010, 0x3010, 0x3E01, 0xD004].all
      (fun w => decide (decode w Operands.zero = .error .reservedBits)) = true ∧
    [0x3E00, 0x9C00, 0xFC00, 0x6E0C, 0x7E0C].all
      (fun w => decide (decode w Operands.zero = .error .badInstance)) = true ∧
    [0x1008, 0x600C].all
      (fun w => decide (decode w Operands.zero = .error .badSelect)) = true := by decide

/-- The table's words of R78 do not overlap (spec/opcode_table.json). -/
theorem test_opcode_table_rows_disjoint :
    opcodeTable.Pairwise
      (fun r r' => r.pat &&& (r.mask &&& r'.mask) ≠ r'.pat &&& (r.mask &&& r'.mask)) := by decide

/-- The configuration words of the Encodings table. -/
theorem test_assemble_cfg :
    assembleCfg { len := 8, dir := .backward, split := 4, r1 := 2, r2 := 1 } = 0x0000000200104448 ∧
    assembleCfg { len := 16, split := 8, r1 := 2, r2 := 1, fill := 6 } = 0x0000000230104810 ∧
    assembleCfg { len := 4 } = 0x0000000200102004 ∧
    assembleCfg { len := 4, dir := .pingpong } = 0x0000000200102084 ∧
    assembleCfg { len := 8, split := 4, r1 := 3, r2 := 1, run := false } = 0x0000000000106408 := by
  decide

/-- PROG-1, lines 2, 3 and one pulse of line 5: the words and operands they assemble to. -/
theorem test_assemble_lines :
    assemble [.op (.cvRst 0), .op (.cvWrval 0 1 0 1000), .clkPulse 64] =
      [⟨0x4000, Operands.zero⟩, ⟨0x7010, { Operands.zero with value := 0x03E8 }⟩,
        ⟨0x0000, { Operands.zero with clk := 0x3F800000, n := 64 }⟩,
        ⟨0x0000, { Operands.zero with n := 64 }⟩] := by decide

/-! ### The step -/

/-- REF-6: the mark records the word and the reason, and the machine takes no further step (PROG-3). -/
theorem test_refusal_marks_and_stops :
    (after (step (issue 0x3E00 Operands.zero))).refused = some ⟨0x3E00, .badInstance⟩ ∧
    step (after (step (issue 0x3E00 Operands.zero))) =
      .refused (.markedRefused 0x3E00 .badInstance) := ⟨rfl, rfl⟩

/-- REF-14 and REF-16: the operand checks. -/
theorem test_operand_refusals :
    (after (step (issue 0x2000 { Operands.zero with cfg := 0xC4 }))).refused =
      some ⟨0x2000, .badDirection⟩ ∧
    (after (step (issue 0xF000 { Operands.zero with code := 3 }))).refused =
      some ⟨0xF000, .badTriState⟩ := by decide

/-- EDGE-13: from power-on, a high clock sample in the first tick makes a clock edge. -/
theorem test_first_tick_after_power_on :
    (after (step (issue 0x0000 { Operands.zero with clk := sampleOne, n := 32 }))).prevClk =
      sampleOne ∧
    rising State.reset.prevClk sampleOne = true := by decide

theorem test_withFetchWord_runs_the_word :
    step (State.reset.withFetchWord 16 0x5200) = exec (.cvRdstep 1) State.reset := rfl

/-! ### Edge Detector -/

/-- EDGE-1, EDGE-2, EDGE-3, EDGE-8, EDGE-9. -/
theorem test_rising_edges :
    rising 0 sampleOne = true ∧ rising half half = false ∧ rising half 0x3F000001 = true ∧
      rising 0x80000000 sampleOne = true ∧ rising half 0x7F800000 = true := by decide

/-- EDGE-10, EDGE-11, and a falling signal. -/
theorem test_no_edges :
    rising nan sampleOne = false ∧ rising 0 nan = false ∧ rising sampleOne 0 = false ∧
      rising sampleOne sampleOne = false := by decide

/-- EDGE-14: `edge.clk` answers true and leaves the reset memory alone. -/
theorem test_edge_clk :
    (after (exec (.edgeClk sampleOne) State.reset)).result = some (.bool true) ∧
    (after (exec (.edgeClk sampleOne) State.reset)).prevRst = 0 := by decide

theorem test_edge_rst :
    (after (exec (.edgeRst half) State.reset)).result = some (.bool false) ∧
    (after (exec (.edgeRst half) State.reset)).prevRst = half ∧
    (after (exec (.edgeRst half) State.reset)).prevClk = 0 := by decide

/-! ### CV engine -/

/-- SRC-3, advances 4 and 12 (section 1 repeats, section 1 done), advance 16 (section 2 done). -/
theorem test_cv_adv_forward_sections :
    cvRt (.cvAdv 0) 0 (cvAt 0 { len := 8, split := 4, r1 := 3 } (at0 3)) = ⟨0, true, 1, 0, false⟩ ∧
    cvRt (.cvAdv 0) 0 (cvAt 0 { len := 8, split := 4, r1 := 3 } ⟨3, true, 2, 0, false⟩) =
      ⟨4, true, 0, 0, true⟩ ∧
    cvRt (.cvAdv 0) 0 (cvAt 0 { len := 8, split := 4, r1 := 3 } ⟨7, true, 0, 0, true⟩) =
      at0 0 := by decide

/-- CV-S3, advances 4, 12 and 16; SRC-2, advances 4 and 8; CV-S10. -/
theorem test_cv_adv_other_directions :
    cvRt (.cvAdv 1) 1 (cvAt 1 { len := 8, dir := .backward, split := 4, r1 := 3 } (at0 4)) =
      ⟨7, true, 1, 0, false⟩ ∧
    cvRt (.cvAdv 1) 1 (cvAt 1 { len := 8, dir := .backward, split := 4, r1 := 3 }
      ⟨4, true, 2, 0, false⟩) = ⟨3, true, 0, 0, true⟩ ∧
    cvRt (.cvAdv 1) 1 (cvAt 1 { len := 8, dir := .backward, split := 4, r1 := 3 }
      ⟨0, true, 0, 0, true⟩) = at0 7 ∧
    cvRt (.cvAdv 2) 2 (cvAt 2 { len := 4, dir := .pingpong } (at0 3)) = ⟨3, false, 0, 0, false⟩ ∧
    cvRt (.cvAdv 2) 2 (cvAt 2 { len := 4, dir := .pingpong } ⟨0, false, 0, 0, false⟩) = at0 0 ∧
    cvRt (.cvAdv 0) 0 (cvAt 0 { len := 8, split := 4, r1 := 2 } ⟨3, true, 0xFFFFFFFF, 0, false⟩) =
      at0 0 := by decide

/-- SRC-5, the Backward row. -/
theorem test_cv_rst :
    cvRt (.cvRst 0) 0 (cvAt 0 { len := 8, dir := .backward, split := 4, r1 := 2 }
      ⟨6, true, 1, 0, false⟩) = at0 7 := by decide

/-- CV-C1: the clamp. -/
theorem test_cv_cfg_clamps :
    cvRt (.cvCfg 0 (assembleCfg { len := 8 })) 0 (cvAt 0 { len := 16 } ⟨10, false, 3, 0, false⟩) =
      ⟨7, false, 3, 0, false⟩ := by decide

/-- Rule R134's example. -/
theorem test_cv_rdstep :
    (after (exec (.cvRdstep 0) (cvAt 0 { len := 8, dir := .backward } (at0 7)))).result =
      some (.u5 7) := by decide

/-- CV-RW2: -32768 is the pattern 0x8000. -/
theorem test_cv_wrval_rdval :
    (after (exec (.cvRdval 2 31 2) (after (exec (.cvWrval 2 31 2 0x8000) State.reset)))).result =
      some (.int16 0x8000) := by decide

theorem test_cv_wrval_neighbours :
    cvRead ((after (exec (.cvWrval 0 3 1 16384) State.reset)).cvEngine 0).pat 3 0 = 0 ∧
    cvRead ((after (exec (.cvWrval 0 3 1 16384) State.reset)).cvEngine 1).pat 3 1 = 0 := by decide

/-- CV-S4 under RANGE_MIRROR: from step 0 of the S1-state with `r1` done, section 2 starts at 7; and
section 2 ends on step 3. -/
theorem test_range_mirror :
    advanceCv .rangeMirror (cfgOf { len := 8, dir := .backward, split := 4, r1 := 3 }).seq
      ⟨0, true, 2, 0, false⟩ = ⟨7, true, 0, 0, true⟩ ∧
    advanceCv .rangeMirror (cfgOf { len := 8, dir := .backward, split := 4, r1 := 3 }).seq
      ⟨4, true, 0, 0, true⟩ = at0 3 := by decide

/-! ### Gate engine -/

/-- CV-C4: stored configurations, through a gate write. -/
theorem test_gt_cfg_validates :
    validate 0x0000000200102000 = some (cfgOf { len := 1 }) ∧
    validate 0x000000020010203F = some (cfgOf { len := 32 }) ∧
    validate 0x00000002064FE408 = some (cfgOf { len := 8, split := 4, r1 := 99, r2 := 99 }) ∧
    validate 0x0000000340104810 = some (cfgOf { len := 16, split := 8, r1 := 2, fill := 32 }) ∧
    validate 0x0003FFFE00102008 = some (cfgOf { len := 8 }) ∧
    validate 0x00000002001020C4 = none := by decide

/-- GT-R2: a stopped track is clamped. -/
theorem test_gt_cfg_clamps_stopped :
    gtRt (.gtCfg 1 (assembleCfg { len := 1, run := false })) 1
      (gtAt 1 { len := 4, run := false } (at0 1) 200 []) = at0 0 := by decide

/-- SRC-4, advance 14: the fill; GT-F5: the fill from step 0. -/
theorem test_gt_adv_fill :
    gtRt (.gtAdv 0) 0 (gtAt 0 { len := 16, split := 8, r1 := 2, fill := 6 } ⟨5, true, 1, 0, false⟩
      0 []) = ⟨8, true, 0, 0, true⟩ ∧
    gtRt (.gtAdv 0) 0 (gtAt 0 { len := 16, split := 8, r1 := 2, fill := 6 } ⟨5, true, 0, 0, false⟩
      0 []) = ⟨6, true, 0, 0, false⟩ ∧
    gtRt (.gtAdv 0) 0 (gtAt 0 { len := 16, split := 8, r1 := 2, fill := 1 } ⟨0, true, 1, 0, false⟩
      0 []) = ⟨8, true, 0, 0, true⟩ := ⟨rfl, rfl, rfl⟩

/-- SRC-2, advances 4 and 7 of the gate row; TICK-1's trigger: landing on a Normal slot sets `tc`. -/
theorem test_gt_adv_pingpong_and_trigger :
    gtRt (.gtAdv 0) 0 (gtAt 0 { len := 4, dir := .pingpong } (at0 3) 0 []) =
      ⟨2, false, 0, 0, false⟩ ∧
    gtRt (.gtAdv 0) 0 (gtAt 0 { len := 4, dir := .pingpong } ⟨0, false, 0, 0, false⟩ 0 []) =
      at0 1 ∧
    ((after (exec (.gtAdv 0) (gtAt 0 { len := 4 } (at0 0) 7 [(1, .normal)]))).gtTrack 0).tc =
      Config.pulseSamples ∧
    ((after (exec (.gtAdv 0) (gtAt 0 { len := 4 } (at0 0) 7 []))).gtTrack 0).tc = 7 :=
  ⟨rfl, rfl, rfl, rfl⟩

/-- GT-R4 and GT-T5: a stopped track is not reset, and a reset keeps `tc`. -/
theorem test_gt_rst :
    gtRt (.gtRst 0) 0 (gtAt 0 { len := 8, run := false } (at0 5) 0 []) = at0 5 ∧
    gtRt (.gtRst 0) 0 (gtAt 0 { len := 8 } ⟨5, false, 2, 0, false⟩ 200 []) = at0 0 ∧
    ((after (exec (.gtRst 0) (gtAt 0 { len := 8 } (at0 5) 200 []))).gtTrack 0).tc = 200 := by decide

/-- GT-T3: saturating decay. -/
theorem test_gt_decay :
    ((after (exec (.gtDecay 0 100) (gtAt 0 { len := 4 } (at0 0) 240 []))).gtTrack 0).tc = 140 ∧
    ((after (exec (.gtDecay 0 0xFFFFFFFF) (gtAt 0 { len := 4 } (at0 0) 240 []))).gtTrack 0).tc =
      0 := by decide

/-- GT-R5. -/
theorem test_gt_wrstate_rdstate :
    (after (exec (.gtRdstate 5 7) (after (exec (.gtWrstate 5 7 1) State.reset)))).result =
      some (.u8 1) ∧
    (after (exec (.gtRdstate 5 6) (after (exec (.gtWrstate 5 7 1) State.reset)))).result =
      some (.u8 0) := by decide

theorem test_gt_rdstep :
    (after (exec (.gtRdstep 0) (gtAt 0 { len := 16 } ⟨8, true, 0, 0, true⟩ 0 []))).result =
      some (.u5 8) := by decide

/-- Rule R175's example. -/
theorem test_gt_rdtrig :
    (after (exec (.gtRdtrig 0) (gtAt 0 { len := 4 } (at0 0) 1 []))).result = some (.bool true) ∧
    (after (exec (.gtRdtrig 0) (gtAt 0 { len := 4 } (at0 0) 0 []))).result = some (.bool false) := by
  decide

/-! ### Dispatcher -/

/-- TICK-1, the RESET_THEN_ADVANCE row (CV and gate step), and TICK-4's decay on a tick without an
edge. -/
theorem test_tick_coincident_and_decay :
    cvRt (.tick sampleOne sampleOne 64) 0 (cvAt 0 { len := 4 } (at0 2)) = at0 1 ∧
    gtRt (.tick sampleOne sampleOne 64) 0 (gtAt 0 { len := 4 } (at0 2) 0 [(1, .normal)]) = at0 1 ∧
    ((after (exec (.tick 0 0 5) (gtAt 0 { len := 4 } (at0 2) 240 []))).gtTrack 0).tc = 235 :=
  ⟨rfl, rfl, rfl⟩

/-- TICK-3: one clock edge moves every engine by its own configuration. -/
theorem test_tick_reaches_every_engine :
    cvRt (.tick sampleOne 0 1) 1 (cvAt 1 { len := 4, dir := .backward } (at0 3)) = at0 2 ∧
    gtRt (.tick sampleOne 0 1) 2 (gtAt 2 { len := 3, dir := .pingpong } (at0 0) 0 []) = at0 1 :=
  ⟨rfl, rfl⟩

/-! ### States and operands that meet the hypotheses of each statement

The configurations used: `cfgOf` of words of 95_test_vectors.md. -/

/-- DecodedWordIsTheEncodersWord, DecodedWordMatchesExactlyItsTableRow. -/
theorem test_meets_a_word_decodes :
    decode 0xFA70 { Operands.zero with code := 1, n := 9 } = .ok (.gtWrstate 5 7 1) := rfl

/-- StepRunsTheDecodedOperation; the first clause of RefusalsFollowTheCheckOrder without a reason. -/
theorem test_meets_an_issued_operation :
    (issue 0x3400 Operands.zero).refused = none ∧
    (issue 0x3400 Operands.zero).pending = ⟨0x3400, Operands.zero⟩ :: [] ∧
    decode 0x3400 Operands.zero = .ok (.cvAdv 2) ∧ firstReason 0x3400 Operands.zero = none :=
  ⟨rfl, rfl, rfl, by decide⟩

/-- StepWithoutAnOperationChangesNothing, OperandChecksDecideTheMark (with a well-formed and an
ill-formed operation). -/
theorem test_meets_nothing_issued :
    State.reset.refused = none ∧ State.reset.pending = [] ∧
    (Instr.cvCfg 0 0xC4).WellFormed = false ∧ (Instr.cvCfg 0 0x84).WellFormed = true := by decide

/-- RefusalsFollowTheCheckOrder: every reason is the first reason of some word. -/
theorem test_meets_each_reason :
    firstReason 0x3E01 Operands.zero = some .reservedBits ∧
    firstReason 0x6E0C Operands.zero = some .badInstance ∧
    firstReason 0x1008 Operands.zero = some .badSelect ∧
    firstReason 0x8000 { Operands.zero with cfg := 0xC4 } = some .badDirection ∧
    firstReason 0xF000 { Operands.zero with code := 3 } = some .badTriState ∧
    firstReason 0xF000 { Operands.zero with code := 2 } = none ∧
    (State.reset.setRefused (some ⟨0x3E01, .reservedBits⟩)).refused =
      some ⟨0x3E01, .reservedBits⟩ := by decide

/-- IssuedOperationsRunInOrder. -/
theorem test_meets_a_list_of_operations :
    (∀ op ∈ [Instr.cvCfg 0 0x0000000200102004, .cvAdv 0, .tick sampleOne 0 64, .gtWrstate 0 1 2],
      op.WellFormed = true) ∧ State.reset.refused = none ∧ State.reset.pending = [] := by decide

/-- Every legal-configuration premise: the largest and the smallest configuration. -/
theorem test_meets_legal_configurations :
    (cfgOf { len := 32, dir := .backward, split := 31, r1 := 99, r2 := 99, fill := 32 }).Legal ∧
    GateCfg.poweron.Legal := by
  unfold GateCfg.Legal SeqCfg.Legal
  decide

/-- PowerOnLeavesTheStartState, PowerOnMeetsTheInvariants: configurations and patterns at the edge of
their ranges. -/
theorem test_meets_power_on :
    (∀ _ : Fin 3, (cfgOf { len := 32, dir := .backward, split := 31 }).seq.Legal) ∧
    (∀ _ : Fin 6, (cfgOf { len := 1, fill := 32 }).Legal) ∧
    (∀ _ : Fin 3, Memory.wf Config.unlistedCv 96 [(0, 5), (95, 0x8000)] = true) ∧
    ∀ _ : Fin 6, Memory.wf Config.unlistedGate 32 [(0, .accent), (31, .normal)] = true := by
  unfold GateCfg.Legal SeqCfg.Legal
  decide

/-- The reset state with one advance of a sectioned engine issued. -/
def invState : State :=
  (cvAt 0 { len := 8, split := 4, r1 := 3 } ⟨3, true, 2, 0, false⟩).setPending
    [⟨0x3000, Operands.zero⟩]

/-- StepKeepsPlayHeadsInRange. -/
theorem test_meets_play_heads_in_range :
    invState.CfgLegal ∧ invState.StepInRange ∧ step invState = .next (after (step invState)) := by
  refine ⟨?_, ?_, rfl⟩
  · unfold State.CfgLegal GateCfg.Legal SeqCfg.Legal
    decide
  · unfold State.StepInRange
    decide

/-- StepKeepsInactiveCountersZero, StepKeepsTablesCanonical. -/
theorem test_meets_counters_and_tables :
    invState.CountersExclusive ∧ invState.TablesCanonical ∧
      step invState = .next (after (step invState)) := by
  refine ⟨?_, ?_, rfl⟩
  · unfold State.CountersExclusive Runtime.CountersExclusive
    decide
  · unfold State.TablesCanonical
    decide

/-- StepKeepsTriggersBounded. -/
theorem test_meets_triggers_bounded :
    invState.TriggersBounded ∧ step invState = .next (after (step invState)) := by
  refine ⟨fun t => ?_, rfl⟩
  have h : ∀ t, (invState.gtTrack t).tc = 0 := by decide
  rw [h t]
  exact Nat.zero_le _

/-- CountersStayBelowRepeatCounts, at the last repetition, on a CV engine and on a gate track. -/
theorem test_meets_counter_bounds :
    let s := cvAt 0 { len := 8, split := 4, r1 := 3 } ⟨3, true, 2, 0, false⟩
    let g := gtAt 0 { len := 16, split := 8, r1 := 2, fill := 6 } ⟨5, true, 1, 0, false⟩ 0 []
    (exec (.cvAdv 0) s = .next (after (exec (.cvAdv 0) s)) ∧
      ((after (exec (.cvAdv 0) s)).cvEngine 0).cfg = (s.cvEngine 0).cfg ∧
      (s.cvEngine 0).cfg.Legal ∧ Sectioned (s.cvEngine 0).cfg ∧
      (s.cvEngine 0).rt.CountersExclusive ∧ CounterBounds (s.cvEngine 0).cfg (s.cvEngine 0).rt) ∧
    exec (.gtAdv 0) g = .next (after (exec (.gtAdv 0) g)) ∧
      ((after (exec (.gtAdv 0) g)).gtTrack 0).cfg = (g.gtTrack 0).cfg ∧
      (g.gtTrack 0).cfg.Legal ∧ Sectioned (g.gtTrack 0).cfg.seq ∧
      (g.gtTrack 0).rt.CountersExclusive ∧
      CounterBounds (g.gtTrack 0).cfg.seq (g.gtTrack 0).rt := by
  unfold GateCfg.Legal SeqCfg.Legal Sectioned Runtime.CountersExclusive CounterBounds
  exact ⟨⟨rfl, rfl, by decide⟩, rfl, rfl, by decide⟩

/-- SampleComparisonsOrderTheValues. -/
theorem test_meets_samples : ¬ IsNaN 0x7F800000 ∧ ¬ IsNaN 0x80000000 ∧ IsNaN nan := by
  unfold IsNaN
  decide

/-- NoEdgeWithoutALowSampleBetween: a clock sample that made an edge, by a tick, and a NaN reset sample,
by `edge.rst`, each with an operation between that does not evaluate the signal. -/
theorem test_meets_edges :
    let tick := Instr.tick sampleOne 0 64
    let s := after (exec tick State.reset)
    let t := after (exec (.edgeRst nan) State.reset)
    rising State.reset.prevClk sampleOne = true ∧ sampleLow sampleOne = false ∧
    sampleLow nan = false ∧ exec tick State.reset = .next s ∧
    execAll [.edgeRst 0] s = .next (after (exec (.edgeRst 0) s)) ∧
    exec (.edgeRst nan) State.reset = .next t ∧
    execAll [.cvAdv 0] t = .next (after (exec (.cvAdv 0) t)) :=
  ⟨by decide, by decide, by decide, rfl, rfl, rfl, rfl⟩

theorem test_meets_evaluations :
    EvaluatesClk (.tick sampleOne 0 64) sampleOne ∧ EvaluatesRst (.edgeRst nan) nan ∧
    (∀ m ∈ [Instr.edgeRst 0], ∀ x, ¬ EvaluatesClk m x) ∧
    ∀ m ∈ [Instr.cvAdv 0], ∀ x, ¬ EvaluatesRst m x := by
  simp [EvaluatesClk, EvaluatesRst]

/-- ForwardWithoutSectionsWrapsAtLength and BackwardWithoutSectionsWrapsBelowZero, with the split point
0, equal to the length and above it. -/
theorem test_meets_without_sections :
    (cfgOf { len := 8 }).Legal ∧ (cfgOf { len := 8 }).running = true ∧
    (cfgOf { len := 8 }).seq.direction = .forward ∧ ¬ Sectioned (cfgOf { len := 8 }).seq ∧
    ¬ Sectioned (cfgOf { len := 8, split := 8 }).seq ∧
    ¬ Sectioned (cfgOf { len := 8, split := 20 }).seq ∧
    (cfgOf { len := 8, dir := .backward, split := 8 }).Legal ∧
    (cfgOf { len := 8, dir := .backward, split := 8 }).running = true ∧
    (cfgOf { len := 8, dir := .backward, split := 8 }).seq.direction = .backward ∧
    ¬ Sectioned (cfgOf { len := 8, dir := .backward, split := 8 }).seq := by
  unfold GateCfg.Legal SeqCfg.Legal Sectioned
  decide

/-- CvPingpongTurnsWithoutSkipping, GatePingpongSkipsAtTheTurn, CvPingpongReturnsAfterTwoLengths and
GatePingpongHasPeriodTwoLengthsLessTwo. -/
theorem test_meets_pingpong :
    let s := cvAt 0 { len := 4, dir := .pingpong, split := 2 } (at0 0)
    let g := gtAt 0 { len := 2, dir := .pingpong } (at0 0) 0 []
    ((s.cvEngine 0).cfg.Legal ∧ (s.cvEngine 0).cfg.direction = .pingpong ∧
      (s.cvEngine 0).rt.step.toNat = 0 ∧ (s.cvEngine 0).rt.pf = true) ∧
    (g.gtTrack 0).cfg.Legal ∧ (g.gtTrack 0).cfg.running = true ∧
      (g.gtTrack 0).cfg.seq.direction = .pingpong ∧ 2 ≤ (g.gtTrack 0).cfg.seq.length.toNat ∧
      (g.gtTrack 0).rt.step.toNat = 0 ∧ (g.gtTrack 0).rt.pf = true := by
  unfold GateCfg.Legal SeqCfg.Legal
  decide

/-- ForwardWithSectionsRepeatsAndSwitches, ForwardSectionsLoopInExactlyTheirRepeats, and their Backward
counterparts with RangeMirrorKeepsTheSectionRanges. -/
theorem test_meets_sections :
    let s := cvAt 0 { len := 32, split := 31 } (at0 0)
    let b := gtAt 0 { len := 2, dir := .backward, split := 1, r1 := 2 } (at0 1) 0 []
    let c := cvAt 0 { len := 8, dir := .backward, split := 4, r1 := 3 } (at0 7)
    ((s.cvEngine 0).cfg.Legal ∧ (s.cvEngine 0).cfg.direction = .forward ∧
      Sectioned (s.cvEngine 0).cfg ∧ (s.cvEngine 0).rt = startOf (s.cvEngine 0).cfg) ∧
    ((b.gtTrack 0).cfg.running = true ∧ (b.gtTrack 0).cfg.seq.direction = .backward ∧
      Sectioned (b.gtTrack 0).cfg.seq) ∧
    (c.cvEngine 0).cfg.Legal ∧ (c.cvEngine 0).cfg.direction = .backward ∧
      Sectioned (c.cvEngine 0).cfg ∧ (c.cvEngine 0).rt = startOf (c.cvEngine 0).cfg := by
  unfold SeqCfg.Legal Sectioned
  decide

/-- FillJumpsToTheSplitPoint, both branches, and FillShortensTheForwardLoop (SRC-4; the largest fill
start that can fire). -/
theorem test_meets_fill :
    let g := gtAt 0 { len := 16, split := 8, r1 := 2, fill := 7 } (at0 0) 0 []
    (g.gtTrack 0).cfg.Legal ∧ (g.gtTrack 0).cfg.running = true ∧
      (g.gtTrack 0).cfg.seq.direction = .forward ∧ Sectioned (g.gtTrack 0).cfg.seq ∧
      0 < (g.gtTrack 0).cfg.fillStart.toNat ∧
      (g.gtTrack 0).cfg.fillStart.toNat < (g.gtTrack 0).cfg.seq.splitPoint.toNat ∧
      1 < (g.gtTrack 0).cfg.seq.sec1Reps.toNat ∧
      (g.gtTrack 0).rt = startOf (g.gtTrack 0).cfg.seq ∧
      ¬ FillFires (g.gtTrack 0).cfg (g.gtTrack 0).rt ∧
      FillFires (g.gtTrack 0).cfg ⟨6, true, 1, 0, false⟩ := by
  unfold GateCfg.Legal SeqCfg.Legal FillFires Sectioned
  decide

/-- ResetReturnsToTheStartPosition, ResetIsIdempotentFromAnyState, GateAdvanceSetsTheTrigger on a running
track. -/
theorem test_meets_reset :
    let s := cvAt 0 { len := 8, dir := .backward, split := 4, r1 := 2 } ⟨6, true, 1, 0, false⟩
    let g := gtAt 5 { len := 5, dir := .pingpong } ⟨3, false, 0, 0, false⟩ 9 []
    ((s.cvEngine 0).cfg.Legal ∧ exec (.cvRst 0) s = .next (after (exec (.cvRst 0) s))) ∧
    (g.gtTrack 5).cfg.Legal ∧ (g.gtTrack 5).cfg.running = true ∧
      exec (.gtRst 5) g = .next (after (exec (.gtRst 5) g)) := by
  unfold GateCfg.Legal SeqCfg.Legal
  exact ⟨⟨by decide, rfl⟩, by decide, by decide, rfl⟩

/-- StoppedTrackIgnoresAdvanceAndReset, GateAdvanceSetsTheTrigger on a stopped track; ConfigurationWriteClampsOrRefuses, both clauses. -/
theorem test_meets_stopped_and_words :
    ((gtAt 0 { len := 8, run := false } (at0 5) 3 []).gtTrack 0).cfg.running = false ∧
    (assembleCfg { len := 63, dir := .pingpong }).toNat / 64 % 4 ≠ 3 ∧
    (0x00000002001020C4 : CfgWord).toNat / 64 % 4 = 3 := by decide

/-- CvWriteChangesOneElement, GateWriteChangesOneSlotOrRefuses (both clauses) and
TableWritesAreIdempotent. -/
theorem test_meets_tables :
    let s := gtAt 0 { len := 4 } (at0 0) 0 [(0, .accent), (31, .normal)]
    Memory.wf Config.unlistedCv 96 (s.cvEngine 0).pat = true ∧
    Memory.wf Config.unlistedGate 32 (s.gtTrack 0).pat = true ∧ s.TablesCanonical ∧
    (2 : Code).toNat ≤ 2 ∧ 2 < (3 : Code).toNat := by
  unfold State.TablesCanonical
  decide

theorem test_meets_table_writes :
    exec (.cvWrval 2 31 2 7) State.reset = .next (after (exec (.cvWrval 2 31 2 7) State.reset)) ∧
    exec (.gtWrstate 5 31 2) State.reset = .next (after (exec (.gtWrstate 5 31 2) State.reset)) :=
  ⟨rfl, rfl⟩

/-- TickIsIndependentOfTheEngineOrder: an interleaved order. -/
theorem test_meets_another_order :
    [.gt 5, .cv 2, .gt 4, .gt 0, .cv 0, .gt 3, .cv 1, .gt 2, .gt 1].Perm engineOrder := by decide

/-- NoEngineDependsOnAnother: two states that differ in other engines and agree on CV engine 1, gate
track 2 and the edge memory. -/
theorem test_meets_two_states :
    let s := cvAt 0 { len := 4 } (at0 2)
    let s' := gtAt 1 { len := 8 } (at0 5) 3 []
    s ≠ s' ∧ s.prevClk = s'.prevClk ∧ s.prevRst = s'.prevRst ∧ s.cvEngine 1 = s'.cvEngine 1 ∧
      s.gtTrack 2 = s'.gtTrack 2 := by decide

theorem test_meets_two_ticks :
    let s := cvAt 0 { len := 4 } (at0 2)
    let s' := gtAt 1 { len := 8 } (at0 5) 3 []
    exec (.tick sampleOne 0 9) s = .next (after (exec (.tick sampleOne 0 9) s)) ∧
      exec (.tick sampleOne 0 9) s' = .next (after (exec (.tick sampleOne 0 9) s')) := ⟨rfl, rfl⟩

/-- OneEdgeAloneMakesTheOrdersAgree. -/
theorem test_meets_one_edge : (true && false) = false ∧ (false && true) = false := by decide

/-- CoincidentEdgesLeaveOneAdvancePastReset, TickFrame's last clause and TriggerPulseLastsItsSamples'
low samples. -/
theorem test_meets_coincident_edges :
    let g := gtAt 0 { len := 2, dir := .backward } (at0 1) 0 []
    rising g.prevClk sampleOne = true ∧ rising g.prevRst sampleOne = true ∧
      (g.gtTrack 0).cfg.Legal ∧ (g.gtTrack 0).cfg.running = true ∧
      2 ≤ (g.gtTrack 0).cfg.seq.length.toNat ∧ ¬ Sectioned (g.gtTrack 0).cfg.seq ∧
      CoincidentOrder.advanceThenReset ≠ .resetThenAdvance ∧
      rising g.prevClk 0 = false ∧ sampleHigh 0 = false ∧ sampleHigh half = false := by
  unfold GateCfg.Legal SeqCfg.Legal Sectioned
  decide

theorem test_meets_coincident_edges_cv :
    let s := cvAt 0 { len := 4 } (at0 2)
    (s.cvEngine 0).cfg.Legal ∧ 2 ≤ (s.cvEngine 0).cfg.length.toNat ∧
      ¬ Sectioned (s.cvEngine 0).cfg := by
  unfold SeqCfg.Legal Sectioned
  decide

/-- The two statements about who writes what, the two frames of one engine and TickFrame: each kind of
operation answers a next state, and the named registers do change. -/
theorem test_meets_writers :
    ((after (exec (.cvCfg 0 (assembleCfg { len := 8 })) State.reset)).cvEngine 0).cfg ≠
      (State.reset.cvEngine 0).cfg ∧
    ((after (exec (.cvWrval 0 1 0 7) State.reset)).cvEngine 0).pat ≠
      (State.reset.cvEngine 0).pat ∧
    ((after (exec (.gtWrstate 0 1 2) State.reset)).gtTrack 0).pat ≠
      (State.reset.gtTrack 0).pat ∧
    (after (exec (.edgeRst half) State.reset)).prevRst ≠ State.reset.prevRst ∧
    (∀ c r n, Instr.cvAdv 0 ≠ .tick c r n) ∧
    (cvRt (.cvAdv 0) 0 (cvAt 0 { len := 4, dir := .pingpong } (at0 3))).pf ≠ true ∧
    (cvRt (.cvAdv 0) 0 (cvAt 0 { len := 8, split := 4, r1 := 3 } (at0 3))).c1 ≠ 0 := by
  refine ⟨by decide, by decide, by decide, by decide, fun _ _ _ h => ?_, by decide, by decide⟩
  cases h

theorem test_meets_frames :
    exec (.cvCfg 0 0xC4) State.reset = .next (after (exec (.cvCfg 0 0xC4) State.reset)) ∧
    exec (.gtDecay 0 3) State.reset = .next (after (exec (.gtDecay 0 3) State.reset)) ∧
    exec (.tick 0 0 3) State.reset = .next (after (exec (.tick 0 0 3) State.reset)) :=
  ⟨rfl, rfl, rfl⟩

/-- AdvancesCloseTheRing, both clauses. -/
theorem test_meets_ring :
    let s := cvAt 0 { len := 32 } (at0 0)
    let b := cvAt 0 { len := 1, dir := .backward } (at0 0)
    ((s.cvEngine 0).cfg.Legal ∧ ¬ Sectioned (s.cvEngine 0).cfg ∧
      (s.cvEngine 0).cfg.direction = .forward ∧ (s.cvEngine 0).rt.step.toNat = 0) ∧
    (b.cvEngine 0).cfg.Legal ∧ ¬ Sectioned (b.cvEngine 0).cfg ∧
      (b.cvEngine 0).cfg.direction = .backward ∧
      (b.cvEngine 0).rt.step.toNat = (b.cvEngine 0).cfg.length.toNat - 1 := by
  unfold SeqCfg.Legal Sectioned
  decide

/-- TriggerPulseLastsItsSamples: the first tick of SRC-6. -/
theorem test_meets_trigger_pulse :
    let s := gtAt 0 { len := 4 } (at0 0) 0 [(1, .normal)]
    let t := after (exec (.tick sampleOne 0 64) s)
    rising s.prevClk sampleOne = true ∧ (s.gtTrack 0).cfg.running = true ∧
      exec (.tick sampleOne 0 64) s = .next t ∧
      gtRead (t.gtTrack 0).pat (t.gtTrack 0).rt.step ≠ .off ∧ sampleHigh 0 = false ∧
      0 < (64 : U32).toNat := by
  refine ⟨by decide, by decide, rfl, ?_, by decide, by decide⟩
  change TriState.normal ≠ .off
  decide

end Sys2Proof.Tests
end

section
/-!
SUPPORT. The binary32 comparisons and the values they order (00_scope.md R10, 40_edge_detector.md R100).
A value is the odd function `scaledValue` of the comparison key over the fixed denominator 2^149, and
that function is strictly increasing, so keys and values are ordered alike.
-/

namespace Sys2Proof.Machine

open Sys2Proof.Claims

/-! ### Magnitudes -/

/-- What the 31 bits below the sign stand for, in units of 2^-149 (the fields of `binary32Value`). -/
def scaledMagnitude (n : Nat) : Nat :=
  if n / 2 ^ 23 = 0 then n % 2 ^ 23 else (2 ^ 23 + n % 2 ^ 23) * 2 ^ (n / 2 ^ 23 - 1)

@[simp] theorem scaledMagnitude_zero : scaledMagnitude 0 = 0 := rfl

theorem scaledMagnitude_subnormal {f : Nat} (hf : f < 2 ^ 23) : scaledMagnitude f = f := by
  rw [scaledMagnitude, if_pos (Nat.div_eq_of_lt hf), Nat.mod_eq_of_lt hf]

theorem scaledMagnitude_normal (d : Nat) {f : Nat} (hf : f < 2 ^ 23) :
    scaledMagnitude ((d + 1) * 2 ^ 23 + f) = (2 ^ 23 + f) * 2 ^ d := by
  have he : ((d + 1) * 2 ^ 23 + f) / 2 ^ 23 = d + 1 := by omega
  have hm : ((d + 1) * 2 ^ 23 + f) % 2 ^ 23 = f := by omega
  rw [scaledMagnitude, he, hm, if_neg d.succ_ne_zero, Nat.add_sub_cancel]

/-- The next pattern has the next fraction of the same exponent, or the first fraction of the next
exponent. -/
theorem scaledMagnitude_lt_succ (n : Nat) : scaledMagnitude n < scaledMagnitude (n + 1) := by
  obtain ⟨e, f, hf, rfl⟩ : ∃ e f, f < 2 ^ 23 ∧ n = e * 2 ^ 23 + f :=
    ⟨n / 2 ^ 23, n % 2 ^ 23, Nat.mod_lt _ (by decide), (Nat.div_add_mod' n _).symm⟩
  obtain hlt | hlast : f + 1 < 2 ^ 23 ∨ f + 1 = 2 ^ 23 := by omega
  · cases e with
    | zero =>
      simp only [Nat.zero_mul, Nat.zero_add]
      rw [scaledMagnitude_subnormal hf, scaledMagnitude_subnormal hlt]
      exact Nat.lt_succ_self f
    | succ d =>
      rw [scaledMagnitude_normal d hf, Nat.add_assoc, scaledMagnitude_normal d hlt]
      exact Nat.mul_lt_mul_of_pos_right (by omega) (Nat.two_pow_pos d)
  · have hnext : e * 2 ^ 23 + f + 1 = (e + 1) * 2 ^ 23 + 0 := by omega
    rw [hnext, scaledMagnitude_normal e (by decide)]
    cases e with
    | zero =>
      rw [Nat.zero_mul, Nat.zero_add, scaledMagnitude_subnormal hf]
      omega
    | succ d =>
      rw [scaledMagnitude_normal d hf]
      calc (2 ^ 23 + f) * 2 ^ d
          < 2 ^ 24 * 2 ^ d := Nat.mul_lt_mul_of_pos_right (by omega) (Nat.two_pow_pos d)
        _ = (2 ^ 23 + 0) * 2 ^ (d + 1) := by ring

theorem scaledMagnitude_strictMono : StrictMono scaledMagnitude :=
  strictMono_nat_of_lt_succ scaledMagnitude_lt_succ

/-! ### Values -/

/-- The value a comparison key stands for, in units of 2^-149: the key's sign on the magnitude's value. -/
def scaledValue (k : Int) : Int := scaledMagnitude k.toNat - scaledMagnitude (-k).toNat

@[simp] theorem scaledValue_natCast (n : Nat) : scaledValue n = scaledMagnitude n := by
  simp [scaledValue]

theorem scaledValue_neg (k : Int) : scaledValue (-k) = -scaledValue k := by
  simp [scaledValue]

theorem scaledValue_strictMono : StrictMono scaledValue := by
  refine strictMono_of_odd_strictMonoOn_nonneg scaledValue_neg fun a ha b hb hab => ?_
  lift a to Nat using ha
  lift b to Nat using hb
  simpa using scaledMagnitude_strictMono (Int.ofNat_lt.mp hab)

theorem scaledMagnitude_f32Magnitude (v : Sample) :
    scaledMagnitude (f32Magnitude v) =
      if v.toNat / 2 ^ 23 % 2 ^ 8 = 0 then v.toNat % 2 ^ 23
      else (2 ^ 23 + v.toNat % 2 ^ 23) * 2 ^ (v.toNat / 2 ^ 23 % 2 ^ 8 - 1) := by
  have he : f32Magnitude v / 2 ^ 23 = v.toNat / 2 ^ 23 % 2 ^ 8 := by
    rw [f32Magnitude]; omega
  have hf : f32Magnitude v % 2 ^ 23 = v.toNat % 2 ^ 23 := by
    rw [f32Magnitude]; omega
  rw [scaledMagnitude, he, hf]

/-- Ties `scaledValue` to the statements' `binary32Value`. -/
theorem binary32Value_eq (v : Sample) : binary32Value v = scaledValue (f32Key v) / 2 ^ 149 := by
  have hsign : v.toNat / 2 ^ 31 = 1 ↔ ¬ v.toNat < 2 ^ 31 := by omega
  simp only [binary32Value, ← scaledMagnitude_f32Magnitude, f32Key, hsign, ite_not]
  split
  · rw [scaledValue_natCast, Int.cast_natCast]
  · rw [scaledValue_neg, scaledValue_natCast, Int.cast_neg, Int.cast_natCast]

theorem binary32Value_lt_iff (a b : Sample) :
    binary32Value a < binary32Value b ↔ f32Key a < f32Key b := by
  rw [binary32Value_eq, binary32Value_eq, div_lt_div_iff_of_pos_right (by positivity), Int.cast_lt,
    scaledValue_strictMono.lt_iff_lt]

theorem binary32Value_le_iff (a b : Sample) :
    binary32Value a ≤ binary32Value b ↔ f32Key a ≤ f32Key b := by
  rw [← not_lt, binary32Value_lt_iff, not_lt]

/-! ### The comparisons -/

theorem f32IsNaN_iff (v : Sample) : f32IsNaN v = true ↔ IsNaN v := by
  rw [f32IsNaN, decide_eq_true_iff, f32Magnitude, IsNaN]
  omega

/-- The ordered `≤` is that of the values and needs two numbers (R10). -/
theorem f32Le_iff (a b : Sample) :
    f32Le a b = true ↔ ¬ IsNaN a ∧ ¬ IsNaN b ∧ binary32Value a ≤ binary32Value b := by
  simp [f32Le, ← f32IsNaN_iff, binary32Value_le_iff, and_assoc]

/-- The ordered `>` is that of the values and needs two numbers (R10). -/
theorem f32Gt_iff (a b : Sample) :
    f32Gt a b = true ↔ ¬ IsNaN a ∧ ¬ IsNaN b ∧ binary32Value b < binary32Value a := by
  simp [f32Gt, ← f32IsNaN_iff, binary32Value_lt_iff, and_assoc]

theorem binary32Value_edgeThreshold : binary32Value Config.edgeThreshold = 1 / 2 := by
  norm_num [binary32Value, Config.edgeThreshold]

theorem edgeThreshold_not_isNaN : ¬ IsNaN Config.edgeThreshold := by
  rw [← f32IsNaN_iff]
  decide

/-- Settles O19, from `f32Le_iff` and `f32Gt_iff`. -/
theorem sampleComparisonsOrderTheValues : Obligations.SampleComparisonsOrderTheValues := by
  refine ⟨fun a b ha hb => ?_, fun a b h => ?_, binary32Value_edgeThreshold,
    edgeThreshold_not_isNaN⟩
  · simp [f32Le_iff, f32Gt_iff, ha, hb]
  · rw [Bool.eq_false_iff, Bool.eq_false_iff, Ne, Ne, f32Le_iff, f32Gt_iff]
    tauto

end Sys2Proof.Machine
end

section
/-! SUPPORT. The step on an issued operation that decodes (00_scope.md R13, 20_memory.md R59). -/

namespace Sys2Proof.Machine

/-- Settles O5, the decoded case of `step_of_issued`. -/
theorem stepRunsTheDecodedOperation : Obligations.StepRunsTheDecodedOperation := by
  intro s o rest op hr hp hd
  rw [step_of_issued hr hp, hd]

end Sys2Proof.Machine
end

section
/-!
SUPPORT. What one advance can do to the runtime registers of an engine, said once for both kinds of
engine (41_cv_engine.md R123 to R129, 42_gate_engine.md R161 to R164), and what follows for the section
counters (10_state.md R36).
-/

namespace Sys2Proof.Machine

open Sys2Proof.Claims

/-- What a sectioned advance can do: move the play-head only, count a repeat of the active section that
was not its last one, or leave the active section. -/
inductive SectionMove (c : SeqCfg) (r : Runtime) : Runtime → Prop where
  | within (n : Slot) : SectionMove c r { r with step := n }
  | repeatFirst (n : Slot) (hs : r.s2 = false) (hn : (r.c1 + 1).toNat ≠ c.sec1Reps.toNat) :
      SectionMove c r { r with c1 := r.c1 + 1, step := n }
  | enterSecond (n : Slot) (hs : r.s2 = false) :
      SectionMove c r { r with c1 := 0, s2 := true, step := n }
  | repeatSecond (n : Slot) (hs : r.s2 = true) (hn : (r.c2 + 1).toNat ≠ c.sec2Reps.toNat) :
      SectionMove c r { r with c2 := r.c2 + 1, step := n }
  | enterFirst (n : Slot) : SectionMove c r { r with c2 := 0, c1 := 0, s2 := false, step := n }

/-- What an advance can do to the runtime registers. -/
inductive AdvanceMove (c : SeqCfg) (r : Runtime) : Runtime → Prop where
  | pingpong (hd : c.direction = .pingpong) (n : Slot) (f : Bool) :
      AdvanceMove c r { r with step := n, pf := f }
  | plain (n : Slot) : AdvanceMove c r { r with step := n }
  | sectioned {r' : Runtime} (hd : c.direction ≠ .pingpong) (hs : Sectioned c)
      (h : SectionMove c r r') : AdvanceMove c r r'

/-! ### The rules of the automaton are such moves -/

section

variable {c : SeqCfg} {r : Runtime}

/-- The decision tree that FWD_SEC and both readings of the backward rule share; they differ in the
tests `p` and `q` for the end of a section and in the play-head positions. -/
theorem sectionMove_of_tree {p q : Prop} [Decidable p] [Decidable q] (n₁ n₂ n₃ n₄ n₅ n₆ : Slot) :
    SectionMove c r
      (if !r.s2 then
        if p then
          if ((r.c1 + 1).toNat : Int) = c.r1 then { r with c1 := 0, s2 := true, step := n₁ }
          else { r with c1 := r.c1 + 1, step := n₂ }
        else { r with step := n₃ }
      else
        if q then
          if ((r.c2 + 1).toNat : Int) = c.r2 then
            { r with c2 := 0, c1 := 0, s2 := false, step := n₄ }
          else { r with c2 := r.c2 + 1, step := n₅ }
        else { r with step := n₆ }) := by
  split <;> rename_i hs
  · have hfirst : r.s2 = false := by simpa using hs
    split
    · split
      · exact .enterSecond _ hfirst
      · exact .repeatFirst _ hfirst (mt (congrArg Nat.cast) ‹_›)
    · exact .within _
  · have hsecond : r.s2 = true := by simpa using hs
    split
    · split
      · exact .enterFirst _
      · exact .repeatSecond _ hsecond (mt (congrArg Nat.cast) ‹_›)
    · exact .within _

theorem fwdSec_move : SectionMove c r (fwdSec c r) := sectionMove_of_tree ..

theorem bwdSec_move (b : BackwardSections) : SectionMove c r (bwdSec b c r) := by
  cases b with
  | codeMirror => exact sectionMove_of_tree ..
  | rangeMirror => exact sectionMove_of_tree ..

/-- The fill override leaves the first section (R162, R163). -/
theorem fwdSecGate_move {c : GateCfg} : SectionMove c.seq r (fwdSecGate c r) := by
  unfold fwdSecGate
  split
  · refine .enterSecond _ ?_
    simp_all [fillCond]
  · exact fwdSec_move

theorem ppCv_move (hd : c.direction = .pingpong) : AdvanceMove c r (ppCv c r) := by
  unfold ppCv
  dsimp only
  repeat' split
  all_goals exact .pingpong hd _ _

theorem ppGate_move (hd : c.direction = .pingpong) : AdvanceMove c r (ppGate c r) := by
  unfold ppGate
  dsimp only
  repeat' split
  all_goals exact .pingpong hd _ _

/-- The model's test for sections and the statements' one agree (R121). -/
theorem sectionsEnabled_iff (c : SeqCfg) : sectionsEnabled c = true ↔ Sectioned c := by
  simp [sectionsEnabled, Sectioned]

/-- An engine that does not play Pingpong makes a sectioned move exactly where sections are enabled. -/
theorem advanceMove_of_sections {r₁ r₂ : Runtime} (hd : c.direction ≠ .pingpong)
    (h₁ : SectionMove c r r₁) (h₂ : AdvanceMove c r r₂) :
    AdvanceMove c r (if sectionsEnabled c then r₁ else r₂) := by
  split
  · exact .sectioned hd ((sectionsEnabled_iff c).mp ‹_›) h₁
  · exact h₂

theorem advanceCv_move (b : BackwardSections) : AdvanceMove c r (advanceCv b c r) := by
  unfold advanceCv
  split <;> rename_i hd
  · exact ppCv_move hd
  · exact advanceMove_of_sections (by simp [hd]) fwdSec_move (.plain _)
  · exact advanceMove_of_sections (by simp [hd]) (bwdSec_move b) (.plain _)

theorem advanceGate_move (b : BackwardSections) {c : GateCfg} :
    AdvanceMove c.seq r (advanceGate b c r) := by
  unfold advanceGate
  split <;> rename_i hd
  · exact ppGate_move hd
  · exact advanceMove_of_sections (by simp [hd]) fwdSecGate_move (.plain _)
  · exact advanceMove_of_sections (by simp [hd]) (bwdSec_move b) (.plain _)

end

/-! ### The active counter stays below its repeat count -/

section

variable {c : SeqCfg} {r r' : Runtime}

/-- A repeat count is far below 2^32, so a counter below it does not wrap when it counts up. -/
theorem succ_toNat_lt {x : U32} {k : BitVec 7} (h : x.toNat < k.toNat)
    (hne : (x + 1).toNat ≠ k.toNat) : (x + 1).toNat < k.toNat := by
  have hk := k.isLt
  simp only [BitVec.toNat_add, BitVec.ofNat_eq_ofNat, BitVec.toNat_ofNat] at hne ⊢
  omega

/-- A section is entered with its counter at 0, since it was the inactive one. -/
theorem SectionMove.counterBounds (h : SectionMove c r r') (hc : c.Legal)
    (hx : r.CountersExclusive) (hb : CounterBounds c r) : CounterBounds c r' := by
  obtain ⟨-, -, hr1, -, hr2, -⟩ := hc
  obtain ⟨-, hx2⟩ := hx
  obtain ⟨hb1, hb2⟩ := hb
  cases h with
  | within n => exact ⟨hb1, hb2⟩
  | repeatFirst n hs hn => exact ⟨fun _ => succ_toNat_lt (hb1 hs) hn, hb2⟩
  | enterSecond n hs =>
    refine ⟨nofun, fun _ => ?_⟩
    rw [hx2 hs]
    exact hr2
  | repeatSecond n hs hn => exact ⟨hb1, fun _ => succ_toNat_lt (hb2 hs) hn⟩
  | enterFirst n => exact ⟨fun _ => hr1, nofun⟩

theorem AdvanceMove.counterBounds (h : AdvanceMove c r r') (hc : c.Legal)
    (hx : r.CountersExclusive) (hb : CounterBounds c r) : CounterBounds c r' := by
  cases h with
  | pingpong _ n f => exact hb
  | plain n => exact hb
  | sectioned _ _ hm => exact hm.counterBounds hc hx hb

theorem resetEngine_counterBounds (r : Runtime) (hc : c.Legal) :
    CounterBounds c (resetEngine c r) := by
  obtain ⟨-, -, hr1, -⟩ := hc
  exact ⟨fun _ => hr1, nofun⟩

theorem clamp_counterBounds {c' : SeqCfg} (h : CounterBounds c r) :
    CounterBounds c (clamp c' r) := by
  rw [clamp_eq]
  exact h

end

end Sys2Proof.Machine
end

section
/-!
SUPPORT. What the rules of an engine keep, every operation keeps, and the invariants of 10_state.md that
follow from it (R26, R34, R35, R36).
-/

namespace Sys2Proof.Machine

open Sys2Proof.Claims

/-! ### From the rules of an engine to every effect on it -/

/-- A property of CV engines that does not look at the table is kept by every effect if the advance, the
reset and this effect, where it is a configuration write, keep it. -/
theorem CvEffect.keeps {P : CvEngine → Prop} {op : Instr} {s : State} {i : Fin 3} {e : CvEngine}
    (h : CvEffect op s i e) (h0 : P (s.cvEngine i)) (hadv : ∀ b e, P e → P (cvAdvance b e))
    (hrst : ∀ e, P e → P (cvReset e))
    (hcfg : ∀ c, c.Legal → e = cvConfigure c (s.cvEngine i) → P e)
    (hpat : ∀ e m, P e → P { e with pat := m }) : P e := by
  cases h with
  | none => exact h0
  | adv _ => exact hadv _ _ h0
  | rst _ => exact hrst _ h0
  | cfg w c _ hv => exact hcfg c (validate_legal hv) rfl
  | wrval slot o v _ => exact hpat _ _ h0
  | tick clk rst n _ => exact dispatchCv_keeps hrst hadv _ _ _ _ h0

/-- The same for gate tracks, which also decay. -/
theorem GtEffect.keeps {Q : GateTrack → Prop} {op : Instr} {s : State} {k : Fin 6} {g : GateTrack}
    (h : GtEffect op s k g) (h0 : Q (s.gtTrack k))
    (hadv : ∀ b g, Q g → Q (gateAdvance b Config.pulseSamples g))
    (hrst : ∀ g, Q g → Q (gateReset g)) (hdecay : ∀ n g, Q g → Q (gateDecay n g))
    (hcfg : ∀ c, c.Legal → g = gateConfigure c (s.gtTrack k) → Q g)
    (hpat : ∀ g m, Q g → Q { g with pat := m }) : Q g := by
  cases h with
  | none => exact h0
  | adv _ => exact hadv _ _ h0
  | rst _ => exact hrst _ h0
  | decay n _ => exact hdecay _ _ h0
  | cfg w c _ hv => exact hcfg c (validate_legal hv) rfl
  | wrstate slot v x _ _ => exact hpat _ _ h0
  | tick clk rst n _ => exact dispatchGt_keeps hrst hadv _ _ _ _ (hdecay _ _ h0)

/-- What the advance keeps of the runtime registers, a gate track's advance keeps; a stopped track does
not move (R165). -/
theorem gateAdvance_rt_keeps {R : Runtime → Prop} {b : BackwardSections} {p : U32} {g : GateTrack}
    (h : R g.rt) (ha : R (advanceGate b g.cfg g.rt)) : R (gateAdvance b p g).rt := by
  rw [gateAdvance_rt]
  split
  · exact ha
  · exact h

/-- What the reset keeps of the runtime registers, a gate track's reset keeps. -/
theorem gateReset_rt_keeps {R : Runtime → Prop} {g : GateTrack} (h : R g.rt)
    (hr : R (resetEngine g.cfg.seq g.rt)) : R (gateReset g).rt := by
  rw [gateReset_rt]
  split
  · exact hr
  · exact h

/-! ### Configurations legal, play-heads in range (R34) -/

/-- The configuration of a CV engine is legal and its play-head in range. -/
def CvEngine.InRange (e : CvEngine) : Prop := e.cfg.Legal ∧ e.rt.pos ≤ e.cfg.L - 1

/-- The configuration of a gate track is legal and its play-head in range. -/
def GateTrack.InRange (g : GateTrack) : Prop := g.cfg.Legal ∧ g.rt.pos ≤ g.cfg.seq.L - 1

/-- Ties the two predicates to the statements' ones. -/
theorem inRange_iff (s : State) : ((∀ i, (s.cvEngine i).InRange) ∧ ∀ k, (s.gtTrack k).InRange) ↔
    s.CfgLegal ∧ s.StepInRange := by
  simp only [CvEngine.InRange, GateTrack.InRange, State.CfgLegal, State.StepInRange, forall_and]
  tauto

theorem CvEffect.inRange {op : Instr} {s : State} {i : Fin 3} {e : CvEngine}
    (h : CvEffect op s i e) (h0 : (s.cvEngine i).InRange) : e.InRange := by
  refine h.keeps h0 ?_ ?_ ?_ ?_
  · rintro b e ⟨hc, hp⟩
    exact ⟨hc, advanceCv_pos_le b hc hp⟩
  · rintro e ⟨hc, -⟩
    exact ⟨hc, resetEngine_pos_le e.rt hc⟩
  · rintro c hc rfl
    exact ⟨hc.1, clamp_pos_le _ hc.1⟩
  · exact fun _ _ h => h

theorem GtEffect.inRange {op : Instr} {s : State} {k : Fin 6} {g : GateTrack}
    (h : GtEffect op s k g) (h0 : (s.gtTrack k).InRange) : g.InRange := by
  refine h.keeps h0 ?_ ?_ ?_ ?_ ?_
  · rintro b g ⟨hc, hp⟩
    rw [GateTrack.InRange, gateAdvance_cfg]
    exact ⟨hc, gateAdvance_rt_keeps (R := fun r => r.pos ≤ g.cfg.seq.L - 1) hp
      (advanceGate_pos_le b hc.1 hp)⟩
  · rintro g ⟨hc, hp⟩
    rw [GateTrack.InRange, gateReset_cfg]
    exact ⟨hc, gateReset_rt_keeps (R := fun r => r.pos ≤ g.cfg.seq.L - 1) hp
      (resetEngine_pos_le _ hc.1)⟩
  · exact fun _ _ h => h
  · rintro c hc rfl
    exact ⟨hc, clamp_pos_le _ hc.1⟩
  · exact fun _ _ h => h

/-- Settles O13: every effect on an engine keeps it in range. -/
theorem stepKeepsPlayHeadsInRange : Obligations.StepKeepsPlayHeadsInRange := by
  intro s t hc hp hstep
  obtain ⟨hcv, hgt⟩ := (inRange_iff s).mpr ⟨hc, hp⟩
  exact (inRange_iff t).mp
    (step_keeps (fun _ _ _ h => h.inRange) (fun _ _ _ h => h.inRange) hstep hcv hgt)

/-! ### The inactive counter at 0 (R35) -/

theorem CvEffect.countersExclusive {op : Instr} {s : State} {i : Fin 3} {e : CvEngine}
    (h : CvEffect op s i e) (h0 : (s.cvEngine i).rt.CountersExclusive) :
    e.rt.CountersExclusive := by
  refine h.keeps (P := fun e => e.rt.CountersExclusive) h0 ?_ ?_ ?_ ?_
  · exact fun b e h => advanceCv_countersExclusive b e.cfg h
  · exact fun e _ => resetEngine_countersExclusive e.cfg e.rt
  · rintro c - rfl
    exact clamp_countersExclusive c.seq h0
  · exact fun _ _ h => h

theorem GtEffect.countersExclusive {op : Instr} {s : State} {k : Fin 6} {g : GateTrack}
    (h : GtEffect op s k g) (h0 : (s.gtTrack k).rt.CountersExclusive) :
    g.rt.CountersExclusive := by
  refine h.keeps (Q := fun g => g.rt.CountersExclusive) h0 ?_ ?_ ?_ ?_ ?_
  · exact fun b g h => gateAdvance_rt_keeps h (advanceGate_countersExclusive b g.cfg h)
  · exact fun g h => gateReset_rt_keeps h (resetEngine_countersExclusive g.cfg.seq g.rt)
  · exact fun _ _ h => h
  · rintro c - rfl
    exact clamp_countersExclusive c.seq h0
  · exact fun _ _ h => h

/-- Settles O14: every effect on an engine keeps its inactive counter at 0. -/
theorem stepKeepsInactiveCountersZero : Obligations.StepKeepsInactiveCountersZero := by
  rintro s t ⟨hcv, hgt⟩ hstep
  exact step_keeps (P := fun e => e.rt.CountersExclusive) (Q := fun g => g.rt.CountersExclusive)
    (fun _ _ _ h => h.countersExclusive) (fun _ _ _ h => h.countersExclusive) hstep hcv hgt

/-! ### Trigger counters bounded (R26) -/

/-- The trigger counter is loaded with PULSE_SAMPLES and counted down, nothing else. -/
theorem GtEffect.tc_le {op : Instr} {s : State} {k : Fin 6} {g : GateTrack}
    (h : GtEffect op s k g) (h0 : (s.gtTrack k).tc.toNat ≤ Config.pulseSamples.toNat) :
    g.tc.toNat ≤ Config.pulseSamples.toNat := by
  refine h.keeps (Q := fun g => g.tc.toNat ≤ Config.pulseSamples.toNat) h0 ?_ ?_ ?_ ?_ ?_
  · intro b g h
    rw [gateAdvance_tc]
    split
    · exact le_rfl
    · exact h
  · intro g h
    rwa [gateReset_tc]
  · intro n g h
    rw [gateDecay_tc_toNat]
    exact (Nat.sub_le _ _).trans h
  · rintro c - rfl
    exact h0
  · exact fun _ _ h => h

/-- Settles O16: every effect on a gate track keeps the bound. -/
theorem stepKeepsTriggersBounded : Obligations.StepKeepsTriggersBounded := by
  intro s t h hstep
  exact (step_keeps (P := fun _ => True) (Q := fun g => g.tc.toNat ≤ Config.pulseSamples.toNat)
    (fun _ _ _ _ _ => trivial) (fun _ _ _ h => h.tc_le) hstep (fun _ => trivial) h).2

/-! ### Counters below the repeat counts (R36) -/

/-- The counters that a legal configuration allows: the inactive one at 0, the active one below its
repeat count. The first part is what makes the second an invariant. -/
def CountersWithin (c : SeqCfg) (r : Runtime) : Prop := r.CountersExclusive ∧ CounterBounds c r

theorem CvEffect.countersWithin {op : Instr} {s : State} {i : Fin 3} {e : CvEngine}
    (h : CvEffect op s i e) {c : SeqCfg} (hc : c.Legal) (h0 : (s.cvEngine i).cfg = c)
    (hsame : e.cfg = c) (hw : CountersWithin c (s.cvEngine i).rt) : CountersWithin c e.rt := by
  refine (h.keeps (P := fun e => e.cfg = c ∧ CountersWithin c e.rt) ⟨h0, hw⟩ ?_ ?_ ?_ ?_).2
  · rintro b e ⟨rfl, hx, hb⟩
    exact ⟨rfl, advanceCv_countersExclusive b _ hx, (advanceCv_move b).counterBounds hc hx hb⟩
  · rintro e ⟨rfl, -⟩
    exact ⟨rfl, resetEngine_countersExclusive e.cfg e.rt, resetEngine_counterBounds e.rt hc⟩
  · rintro c' - rfl
    exact ⟨hsame, clamp_countersExclusive _ hw.1, clamp_counterBounds hw.2⟩
  · exact fun _ _ h => h

theorem GtEffect.countersWithin {op : Instr} {s : State} {k : Fin 6} {g : GateTrack}
    (h : GtEffect op s k g) {c : GateCfg} (hc : c.Legal) (h0 : (s.gtTrack k).cfg = c)
    (hsame : g.cfg = c) (hw : CountersWithin c.seq (s.gtTrack k).rt) :
    CountersWithin c.seq g.rt := by
  refine (h.keeps (Q := fun g => g.cfg = c ∧ CountersWithin c.seq g.rt) ⟨h0, hw⟩ ?_ ?_ ?_ ?_ ?_).2
  · rintro b g ⟨rfl, hx, hb⟩
    exact ⟨gateAdvance_cfg .., gateAdvance_rt_keeps ⟨hx, hb⟩
      ⟨advanceGate_countersExclusive b _ hx, (advanceGate_move b).counterBounds hc.1 hx hb⟩⟩
  · rintro g ⟨rfl, h⟩
    exact ⟨gateReset_cfg .., gateReset_rt_keeps h
      ⟨resetEngine_countersExclusive _ _, resetEngine_counterBounds _ hc.1⟩⟩
  · exact fun _ _ h => h
  · rintro c' - rfl
    exact ⟨hsame, clamp_countersExclusive _ hw.1, clamp_counterBounds hw.2⟩
  · exact fun _ _ h => h

/-- Settles O18, from the two lemmas `countersWithin`. Unsectioned configurations keep the bounds too. -/
theorem countersStayBelowRepeatCounts : Obligations.CountersStayBelowRepeatCounts := by
  intro op s t h
  refine ⟨fun i hsame hc _ hx hb => ?_, fun k hsame hc _ hx hb => ?_⟩
  · rw [hsame]
    exact ((exec_cvEffect h i).countersWithin hc rfl hsame ⟨hx, hb⟩).2
  · rw [hsame]
    exact ((exec_gtEffect h k).countersWithin hc rfl hsame ⟨hx, hb⟩).2

end Sys2Proof.Machine
end

section
/-!
SUPPORT. Which operation writes which register (10_state.md R21 to R26, R28, R29, R32, R33), read off the
effects of an operation on an engine.
-/

namespace Sys2Proof.Machine

open Sys2Proof.Claims

/-! ### Configurations and tables -/

section

variable {op : Instr} {s : State} {i : Fin 3} {k : Fin 6} {e : CvEngine} {g : GateTrack}

theorem CvEffect.cfg_written (h : CvEffect op s i e) (hne : e.cfg ≠ (s.cvEngine i).cfg) :
    ∃ w, op = .cvCfg i w := by
  cases h with
  | cfg w c hop _ => exact ⟨w, hop⟩
  | tick _ _ _ _ => exact absurd (dispatchCv_cfg ..) hne
  | _ => exact absurd rfl hne

theorem CvEffect.pat_written (h : CvEffect op s i e) (hne : e.pat ≠ (s.cvEngine i).pat) :
    ∃ slot o v, op = .cvWrval i slot o v := by
  cases h with
  | wrval slot o v hop => exact ⟨slot, o, v, hop⟩
  | tick _ _ _ _ => exact absurd (dispatchCv_pat ..) hne
  | _ => exact absurd rfl hne

theorem GtEffect.cfg_written (h : GtEffect op s k g) (hne : g.cfg ≠ (s.gtTrack k).cfg) :
    ∃ w, op = .gtCfg k w := by
  cases h with
  | cfg w c hop _ => exact ⟨w, hop⟩
  | adv _ => exact absurd (gateAdvance_cfg ..) hne
  | rst _ => exact absurd (gateReset_cfg ..) hne
  | tick _ _ _ _ => exact absurd (dispatchGt_cfg ..) hne
  | _ => exact absurd rfl hne

theorem GtEffect.pat_written (h : GtEffect op s k g) (hne : g.pat ≠ (s.gtTrack k).pat) :
    ∃ slot v, op = .gtWrstate k slot v := by
  cases h with
  | wrstate slot v _ hop _ => exact ⟨slot, v, hop⟩
  | adv _ => exact absurd (gateAdvance_pat ..) hne
  | rst _ => exact absurd (gateReset_pat ..) hne
  | tick _ _ _ _ => exact absurd (dispatchGt_pat ..) hne
  | _ => exact absurd rfl hne

end

/-- Settles O47, from `exec_edgeMemory` and the four lemmas above. -/
theorem onlyNamedOperationsWriteConfigurationAndTables :
    Obligations.OnlyNamedOperationsWriteConfigurationAndTables := by
  intro op s t h
  obtain ⟨-, hclk, hrst⟩ := exec_edgeMemory h
  refine ⟨fun hne => ?_, fun hne => ?_, fun i => (exec_cvEffect h i).cfg_written,
    fun k => (exec_gtEffect h k).cfg_written, fun i => (exec_cvEffect h i).pat_written,
    fun k => (exec_gtEffect h k).pat_written⟩
  · obtain heq | ⟨v, hop, -⟩ | ⟨c, r, n, hop, -⟩ := hclk
    · exact absurd heq hne
    · exact .inl ⟨v, hop⟩
    · exact .inr ⟨c, r, n, hop⟩
  · obtain heq | ⟨v, hop, -⟩ | ⟨c, r, n, hop, -⟩ := hrst
    · exact absurd heq hne
    · exact .inl ⟨v, hop⟩
    · exact .inr ⟨c, r, n, hop⟩

/-! ### Runtime registers -/

/-- How an operation other than `tick` writes the runtime registers `r` of an engine with configuration
`c`, where `adv`, `rst` and `cfg` say that it is the engine's advance, reset or configuration write. -/
inductive RuntimeWrite (adv rst cfg : Prop) (c : SeqCfg) (r : Runtime) : Runtime → Prop where
  | none : RuntimeWrite adv rst cfg c r r
  | adv {r' : Runtime} (h : adv) (hm : AdvanceMove c r r') : RuntimeWrite adv rst cfg c r r'
  | rst {r' : Runtime} (h : rst) : RuntimeWrite adv rst cfg c r r'
  | cfg (h : cfg) (n : Slot) : RuntimeWrite adv rst cfg c r { r with step := n }

section

variable {adv rst cfg : Prop} {c : SeqCfg} {r r' : Runtime}

theorem AdvanceMove.pf_written (h : AdvanceMove c r r') (hne : r'.pf ≠ r.pf) :
    c.direction = .pingpong := by
  cases h with
  | pingpong hd _ _ => exact hd
  | plain _ => exact absurd rfl hne
  | sectioned _ _ hm => cases hm <;> exact absurd rfl hne

theorem AdvanceMove.counters_written (h : AdvanceMove c r r')
    (hne : r'.c1 ≠ r.c1 ∨ r'.c2 ≠ r.c2 ∨ r'.s2 ≠ r.s2) :
    c.direction ≠ .pingpong ∧ Sectioned c := by
  cases h with
  | sectioned hd hs _ => exact ⟨hd, hs⟩
  | _ => simp at hne

theorem RuntimeWrite.step_written (h : RuntimeWrite adv rst cfg c r r') (hne : r'.step ≠ r.step) :
    adv ∨ rst ∨ cfg := by
  cases h with
  | none => exact absurd rfl hne
  | adv h _ => exact .inl h
  | rst h => exact .inr (.inl h)
  | cfg h _ => exact .inr (.inr h)

theorem RuntimeWrite.pf_written (h : RuntimeWrite adv rst cfg c r r') (hne : r'.pf ≠ r.pf) :
    (adv ∧ c.direction = .pingpong) ∨ rst := by
  cases h with
  | adv h hm => exact .inl ⟨h, hm.pf_written hne⟩
  | rst h => exact .inr h
  | _ => exact absurd rfl hne

theorem RuntimeWrite.counters_written (h : RuntimeWrite adv rst cfg c r r')
    (hne : r'.c1 ≠ r.c1 ∨ r'.c2 ≠ r.c2 ∨ r'.s2 ≠ r.s2) :
    (adv ∧ c.direction ≠ .pingpong ∧ Sectioned c) ∨ rst := by
  cases h with
  | adv h hm => exact .inl ⟨h, hm.counters_written hne⟩
  | rst h => exact .inr h
  | _ => simp at hne

end

section

variable {op : Instr} {s : State} {i : Fin 3} {k : Fin 6} {e : CvEngine} {g : GateTrack}

theorem CvEffect.runtimeWrite (h : CvEffect op s i e) (hnt : ∀ c r n, op ≠ .tick c r n) :
    RuntimeWrite (op = .cvAdv i) (op = .cvRst i) (∃ w, op = .cvCfg i w) (s.cvEngine i).cfg
      (s.cvEngine i).rt e.rt := by
  cases h with
  | none => exact .none
  | adv hop => exact .adv hop (advanceCv_move _)
  | rst hop => exact .rst hop
  | cfg w c hop _ =>
    rw [cvConfigure, clamp_eq]
    exact .cfg ⟨w, hop⟩ _
  | wrval _ _ _ _ => exact .none
  | tick c r n hop => exact absurd hop (hnt c r n)

theorem GtEffect.runtimeWrite (h : GtEffect op s k g) (hnt : ∀ c r n, op ≠ .tick c r n) :
    RuntimeWrite (op = .gtAdv k) (op = .gtRst k) (∃ w, op = .gtCfg k w) (s.gtTrack k).cfg.seq
      (s.gtTrack k).rt g.rt := by
  cases h with
  | none => exact .none
  | adv hop => exact gateAdvance_rt_keeps .none (.adv hop (advanceGate_move _))
  | rst hop => exact .rst hop
  | decay _ _ => exact .none
  | cfg w c hop _ =>
    rw [gateConfigure, clamp_eq]
    exact .cfg ⟨w, hop⟩ _
  | wrstate _ _ _ _ _ => exact .none
  | tick c r n hop => exact absurd hop (hnt c r n)

/-- A reset leaves the trigger counter alone (R170). -/
theorem GtEffect.tc_written (h : GtEffect op s k g) (hnt : ∀ c r n, op ≠ .tick c r n)
    (hne : g.tc ≠ (s.gtTrack k).tc) : op = .gtAdv k ∨ ∃ n, op = .gtDecay k n := by
  cases h with
  | adv hop => exact .inl hop
  | decay n hop => exact .inr ⟨n, hop⟩
  | rst _ => exact absurd (gateReset_tc ..) hne
  | tick c r n hop => exact absurd hop (hnt c r n)
  | _ => exact absurd rfl hne

end

/-- Settles O48, from `runtimeWrite` for both kinds of engine and `GtEffect.tc_written`. -/
theorem onlyNamedOperationsWriteRuntimeRegisters :
    Obligations.OnlyNamedOperationsWriteRuntimeRegisters := by
  intro op s t h hnt
  refine ⟨fun i => ?_, fun k => ?_⟩
  · have hw := (exec_cvEffect h i).runtimeWrite hnt
    exact ⟨hw.step_written, hw.pf_written, hw.counters_written⟩
  · have hw := (exec_gtEffect h k).runtimeWrite hnt
    exact ⟨hw.step_written, hw.pf_written, hw.counters_written, (exec_gtEffect h k).tc_written hnt⟩

end Sys2Proof.Machine
end

section
/-!
SUPPORT. The engines at power-on (10_state.md R37, 70_reset_and_hazards.md R240): each is at the position
a reset leaves it in, so the invariants hold for the reason that a reset keeps them.
-/

namespace Sys2Proof.Machine

/-! ### Power-on, engine by engine -/

section

variable (cc : Fin 3 → SeqCfg) (gc : Fin 6 → GateCfg) (cp : Fin 3 → Memory CvValue)
  (gp : Fin 6 → Memory TriState)

@[simp] theorem powerOn_cvEngine (i : Fin 3) : (State.powerOn cc gc cp gp).cvEngine i =
    { cfg := cc i, rt := .atPowerOn (cc i), pat := cp i } := by
  fin_cases i <;> rfl

@[simp] theorem powerOn_gtTrack (k : Fin 6) : (State.powerOn cc gc cp gp).gtTrack k =
    { cfg := gc k, rt := .atPowerOn (gc k).seq, tc := 0, pat := gp k } := by
  fin_cases k <;> rfl

end

/-- Power-on leaves the registers a reset leaves (R240). -/
theorem atPowerOn_eq_resetEngine {c : SeqCfg} (r : Runtime) (hc : c.Legal) :
    Runtime.atPowerOn c = resetEngine c r := by
  have hlast : slotOf (c.L - 1) = BitVec.ofNat 5 (c.length.toNat - 1) := by
    rw [← slotOf_natCast, SeqCfg.L, Nat.cast_sub hc.1, Nat.cast_one]
  cases hd : c.direction <;> simp [Runtime.atPowerOn, resetEngine, hd, hlast]

theorem atPowerOn_pos_le {c : SeqCfg} (hc : c.Legal) : (Runtime.atPowerOn c).pos ≤ c.L - 1 := by
  rw [atPowerOn_eq_resetEngine (.atPowerOn c) hc]
  exact resetEngine_pos_le _ hc

theorem atPowerOn_countersExclusive (c : SeqCfg) : (Runtime.atPowerOn c).CountersExclusive :=
  ⟨fun _ => rfl, fun _ => rfl⟩

/-! ### The reset state -/

theorem poweron_legal : GateCfg.poweron.Legal := by
  unfold GateCfg.Legal SeqCfg.Legal
  decide

@[simp] theorem reset_cvEngine (i : Fin 3) :
    State.reset.cvEngine i = ⟨SeqCfg.poweron, ⟨0, true, 0, 0, false⟩, []⟩ :=
  powerOn_cvEngine ..

@[simp] theorem reset_gtTrack (k : Fin 6) :
    State.reset.gtTrack k = ⟨GateCfg.poweron, ⟨0, true, 0, 0, false⟩, 0, []⟩ :=
  powerOn_gtTrack ..

/-- Settles O12: an empty table reads as its unlisted value everywhere. -/
theorem resetStateTakesTheLoggedChoices : Obligations.ResetStateTakesTheLoggedChoices := by
  refine ⟨fun i => ?_, fun k => ?_, rfl, rfl, rfl, rfl, rfl⟩
  · rw [reset_cvEngine]
    exact ⟨rfl, rfl, fun _ _ => rfl⟩
  · rw [reset_gtTrack]
    exact ⟨rfl, rfl, rfl, fun _ => rfl⟩

/-! ### The invariants at power-on -/

theorem powerOn_invariants {cc : Fin 3 → SeqCfg} {gc : Fin 6 → GateCfg}
    {cp : Fin 3 → Memory CvValue} {gp : Fin 6 → Memory TriState} (hc : ∀ i, (cc i).Legal)
    (hg : ∀ k, (gc k).Legal) (hcp : ∀ i, Memory.wf Config.unlistedCv 96 (cp i) = true)
    (hgp : ∀ k, Memory.wf Config.unlistedGate 32 (gp k) = true) :
    let s := State.powerOn cc gc cp gp
    s.CfgLegal ∧ s.StepInRange ∧ s.CountersExclusive ∧ s.TablesCanonical ∧ s.TriggersBounded := by
  simp only [State.CfgLegal, State.StepInRange, State.CountersExclusive, State.TablesCanonical,
    State.TriggersBounded, powerOn_cvEngine, powerOn_gtTrack]
  exact ⟨⟨hc, hg⟩, ⟨fun i => atPowerOn_pos_le (hc i), fun k => atPowerOn_pos_le (hg k).1⟩,
    ⟨fun i => atPowerOn_countersExclusive (cc i), fun k => atPowerOn_countersExclusive (gc k).seq⟩,
    ⟨hcp, hgp⟩, fun _ => Nat.zero_le _⟩

/-- Settles O17: the reset state is power-on at one legal choice of the OPEN parameters. -/
theorem powerOnMeetsTheInvariants : Obligations.PowerOnMeetsTheInvariants :=
  ⟨fun _ _ _ _ hc hg hcp hgp => powerOn_invariants hc hg hcp hgp,
    powerOn_invariants (fun _ => poweron_legal.1) (fun _ => poweron_legal) (fun _ => rfl)
      (fun _ => rfl)⟩

end Sys2Proof.Machine
end

section
/-!
SUPPORT. Every operation is read back from its own word and operands (30_encoding.md R70, R72, R79).
-/

namespace Sys2Proof

/-! ### The encoder's word passes the decoder's checks -/

theorem reservedBitsSet_encodeWord (op : Instr) : reservedBitsSet (encodeWord op) = false := by
  cases op <;> simp [encodeWord, reservedBitsSet, usesInst, usesStep, usesSel]

theorem instanceOutOfRange_encodeWord (op : Instr) :
    instanceOutOfRange (encodeWord op) = false := by
  cases op <;> simp [encodeWord, instanceOutOfRange, fin3Inst_le, fin6Inst_le]

theorem selectOutOfRange_encodeWord (op : Instr) : selectOutOfRange (encodeWord op) = false := by
  cases op <;> simp [encodeWord, selectOutOfRange, outSel_le]

/-- The operation code chooses the operation, and the fields and lanes give back its operands. -/
theorem operationOf_encode (op : Instr) :
    operationOf (encodeWord op) (encodeOperands op) = op := by
  cases op <;> simp [encodeWord, encodeOperands, operationOf]

theorem decode_encode (op : Instr) : decode (encode op).word (encode op).operands = .ok op :=
  (decode_eq_ok_iff _ _ _).mpr ⟨reservedBitsSet_encodeWord op, instanceOutOfRange_encodeWord op,
    selectOutOfRange_encodeWord op, operationOf_encode op⟩

end Sys2Proof
end

section
/-!
SUPPORT. The run of a list of issued operations (20_memory.md R59).
-/

namespace Sys2Proof.Machine

open Sys2Proof.Claims

/-! ### Every operation has a next state -/

/-- The operand checks end in a next state too (60_exceptions.md R220, R221). -/
theorem exec_total (op : Instr) (s : State) : ∃ t, exec op s = .next t := by
  cases op with
  | cvCfg i w =>
    simp only [exec, execCvCfg]
    split <;> exact ⟨_, rfl⟩
  | gtCfg k w =>
    simp only [exec, execGtCfg]
    split <;> exact ⟨_, rfl⟩
  | gtWrstate k slot v =>
    simp only [exec, execGtWrstate]
    split <;> exact ⟨_, rfl⟩
  | _ => exact ⟨_, rfl⟩

/-! ### Running issued operations -/

theorem step_of_encoded {s : State} (op : Instr) (rest : List Operation) (h : s.refused = none) :
    step (s.setPending (encode op :: rest)) = exec op (s.setPending rest) := by
  have hmark : (s.setPending (encode op :: rest)).refused = none := h
  rw [step_of_issued hmark (setPending_pending ..), decode_encode]
  rfl

theorem execAll_cons {op : Instr} {s t : State} (ops : List Instr) (h : exec op s = .next t) :
    execAll (op :: ops) s = execAll ops t := by
  rw [execAll, h]

/-- The run takes one operation a step and leaves what was issued after the list. -/
theorem run_of_encoded {ops : List Instr} (hwf : ∀ op ∈ ops, op.WellFormed = true)
    (p : List Operation) {s : State} (hs : s.refused = none) :
    ∃ t, execAll ops s = .next t ∧ t.refused = none ∧ t.pending = s.pending ∧
      Host.Core.run Sys2Proof.core ops.length (s.setPending (ops.map encode ++ p)) =
        .next (t.setPending p) := by
  induction ops generalizing s with
  | nil => exact ⟨s, rfl, hs, rfl, rfl⟩
  | cons op ops ih =>
    obtain ⟨hop, hops⟩ := List.forall_mem_cons.mp hwf
    obtain ⟨u, hu⟩ := exec_total op s
    have hstep : step (s.setPending ((op :: ops).map encode ++ p)) =
        .next (u.setPending (ops.map encode ++ p)) :=
      (step_of_encoded op _ hs).trans (exec_setPending hu _)
    have hmark : u.refused = none := ((exec_mark hu).1 hop).trans hs
    obtain ⟨t, hall, ht, hp, hrun⟩ := ih hops hmark
    exact ⟨t, (execAll_cons ops hu).trans hall, ht, hp.trans (exec_edgeMemory hu).1,
      (core_run_succ hstep).trans hrun⟩

/-- Settles O10, by `run_of_encoded` with nothing issued after the list. -/
theorem issuedOperationsRunInOrder : Obligations.IssuedOperationsRunInOrder := by
  intro ops s hwf hs hpend
  obtain ⟨t, hall, ht, hp, hrun⟩ := run_of_encoded hwf [] hs
  have hsame : t.setPending [] = t := by
    rw [← hpend, ← hp]
    rfl
  rw [List.append_nil, hsame] at hrun
  exact ⟨hrun.trans hall.symm, t, hrun, ht⟩

end Sys2Proof.Machine
end

section
/-!
SUPPORT. The step tables (20_memory.md R50 to R52, R56): their canonical form is an invariant, a write
changes one element, and a repeated write changes nothing.
-/

namespace Sys2Proof.Machine

/-! ### Canonical form -/

theorem CvEffect.pat_canonical {op : Instr} {s : State} {i : Fin 3} {e : CvEngine}
    (h : CvEffect op s i e) (h0 : Memory.wf Config.unlistedCv 96 (s.cvEngine i).pat = true) :
    Memory.wf Config.unlistedCv 96 e.pat = true := by
  cases h with
  | wrval slot o v _ => exact cvWrite_wf slot o v h0
  | tick _ _ _ _ => rwa [dispatchCv_pat]
  | _ => exact h0

theorem GtEffect.pat_canonical {op : Instr} {s : State} {k : Fin 6} {g : GateTrack}
    (h : GtEffect op s k g) (h0 : Memory.wf Config.unlistedGate 32 (s.gtTrack k).pat = true) :
    Memory.wf Config.unlistedGate 32 g.pat = true := by
  cases h with
  | adv _ => rwa [gateAdvance_pat]
  | rst _ => rwa [gateReset_pat]
  | wrstate slot _ x _ _ => exact gtWrite_wf slot x h0
  | tick _ _ _ _ => rwa [dispatchGt_pat]
  | _ => exact h0

/-- Settles O15: the one effect that writes a table keeps its form. -/
theorem stepKeepsTablesCanonical : Obligations.StepKeepsTablesCanonical := by
  rintro s t ⟨hcv, hgt⟩ hstep
  exact step_keeps (P := fun e => Memory.wf Config.unlistedCv 96 e.pat = true)
    (Q := fun g => Memory.wf Config.unlistedGate 32 g.pat = true)
    (fun _ _ _ h => h.pat_canonical) (fun _ _ _ h => h.pat_canonical) hstep hcv hgt

/-! ### Read after write -/

theorem cvRead_cvWrite {m : Memory CvValue} (h : Memory.wf Config.unlistedCv 96 m = true)
    (slot slot' : Slot) (o o' : Fin 3) (v : CvValue) :
    cvRead (cvWrite m slot o v) slot' o' =
      if slot' = slot ∧ o' = o then v else cvRead m slot' o' := by
  split
  · next heq =>
    obtain ⟨rfl, rfl⟩ := heq
    exact Memory.read_write_same _ _ _ h
  · next hne => exact Memory.read_write_other _ _ (mt cvAddr_inj.mp hne)

/-- Settles O38, from `cvRead_cvWrite`. -/
theorem cvWriteChangesOneElement : Obligations.CvWriteChangesOneElement := by
  intro s i slot o v h
  refine ⟨_, rfl, fun slot' o' => ?_⟩
  rw [setResult_cvEngine, updCv_cvEngine, if_pos rfl]
  exact cvRead_cvWrite h slot slot' o o' v

/-! ### Repeated writes -/

/-- In canonical form equal reads make equal data. -/
theorem Memory.write_write {α : Type} [DecidableEq α] (d : α) {bound a : Nat} {m : Memory α} (v : α)
    (ha : a < bound) (h : Memory.wf d bound m = true) :
    Memory.write d (Memory.write d m a v) a v = Memory.write d m a v := by
  have hw := Memory.wf_write d v ha h
  refine Memory.wf_ext d (Memory.wf_write d v ha hw) hw fun b => ?_
  by_cases hb : b = a
  · rw [hb, Memory.read_write_same d a v hw, Memory.read_write_same d a v h]
  · exact Memory.read_write_other d v hb

theorem cvWrite_cvWrite {m : Memory CvValue} (h : Memory.wf Config.unlistedCv 96 m = true)
    (slot : Slot) (o : Fin 3) (v : CvValue) :
    cvWrite (cvWrite m slot o v) slot o v = cvWrite m slot o v :=
  Memory.write_write _ v (cvAddr_lt slot o) h

theorem gtWrite_gtWrite {m : Memory TriState} (h : Memory.wf Config.unlistedGate 32 m = true)
    (slot : Slot) (v : TriState) :
    gtWrite (gtWrite m slot v) slot v = gtWrite m slot v :=
  Memory.write_write _ v (gtAddr_lt slot) h

/-- A rule that changes nothing the second time completes twice as it completes once. -/
theorem done_updCv_twice {s : State} {i : Fin 3} {f : CvEngine → CvEngine}
    (h : f (f (s.cvEngine i)) = f (s.cvEngine i)) :
    done (((s.updCv i f).setResult none).updCv i f) = done (s.updCv i f) := by
  refine congrArg Host.Outcome.next (state_ext rfl rfl (fun j => ?_) (fun _ => rfl) rfl rfl rfl)
  simp only [setResult_cvEngine, updCv_cvEngine]
  split
  · next heq => rw [heq, h]
  · rfl

theorem done_updGt_twice {s : State} {k : Fin 6} {f : GateTrack → GateTrack}
    (h : f (f (s.gtTrack k)) = f (s.gtTrack k)) :
    done (((s.updGt k f).setResult none).updGt k f) = done (s.updGt k f) := by
  refine congrArg Host.Outcome.next (state_ext rfl rfl (fun _ => rfl) (fun j => ?_) rfl rfl rfl)
  simp only [setResult_gtTrack, updGt_gtTrack]
  split
  · next heq => rw [heq, h]
  · rfl

/-- Settles O40, from `cvWrite_cvWrite` and `gtWrite_gtWrite`. -/
theorem tableWritesAreIdempotent : Obligations.TableWritesAreIdempotent := by
  rintro s ⟨hcv, hgt⟩
  refine ⟨fun i slot o v t hexec => ?_, fun k slot v t hv hexec => ?_⟩
  · obtain rfl : (s.updCv i _).setResult none = t := Host.Outcome.next.inj hexec
    refine done_updCv_twice ?_
    simp only [cvWrite_cvWrite (hcv i)]
  · cases hx : triStateOf v with
    | none => exact absurd ((triStateOf_eq_none_iff v).mp hx) hv.not_gt
    | some x =>
      simp only [exec, execGtWrstate, hx] at hexec ⊢
      obtain rfl : (s.updGt k _).setResult none = t := Host.Outcome.next.inj hexec
      refine done_updGt_twice ?_
      simp only [gtWrite_gtWrite (hgt k)]

end Sys2Proof.Machine
end

section
/-!
SUPPORT. The decoder and the encoder are inverse to each other (30_encoding.md R70 to R72, R78,
R79): a word that passes the three checks is the word of the operation it names.
-/

namespace Sys2Proof

/-- Settles O1, by `decode_encode`. -/
theorem decodeReadsBackEveryEncodedOperation :
    Obligations.DecodeReadsBackEveryEncodedOperation :=
  decode_encode

/-! ### The three checks, on the fields of a word -/

theorem eq_opWord_of_reservedBitsClear {w : OpWord} (h : reservedBitsSet w = false) :
    w = opWord (opOf w) (instOf w) (stepOf w) (selOf w) := by
  have hrsv : rsvOf w = 0 := by
    simp only [reservedBitsSet, Bool.or_eq_false_iff, bne_eq_false_iff_eq] at h
    obtain ⟨⟨⟨hrsv, -⟩, -⟩, -⟩ := h
    exact hrsv
  apply BitVec.eq_of_toNat_eq
  rw [opWord_toNat, word_toNat_eq_fields w, hrsv]
  rfl

/-- The first check on fields: those the operation code does not use are zero (R78). -/
theorem unusedFields_eq_zero {op : BitVec 4} {inst : BitVec 3} {step : BitVec 5} {sel : BitVec 2}
    (h : reservedBitsSet (opWord op inst step sel) = false) :
    (usesInst op = false → inst = 0) ∧ (usesStep op = false → step = 0) ∧
      (usesSel op = false → sel = 0) := by
  simp only [reservedBitsSet, rsvOf_opWord, opOf_opWord, instOf_opWord, stepOf_opWord,
    selOf_opWord, Bool.or_eq_false_iff, Bool.and_eq_false_imp, Bool.not_eq_true',
    bne_eq_false_iff_eq] at h
  tauto

/-- The second check on fields: `inst` is that of the engine it names. -/
theorem inst_roundTrip_of_inRange {op : BitVec 4} {inst : BitVec 3} {step : BitVec 5}
    {sel : BitVec 2} (h : instanceOutOfRange (opWord op inst step sel) = false) :
    (2 ≤ op.toNat → op.toNat ≤ 7 → fin3Inst (cvIndex inst) = inst) ∧
      (8 ≤ op.toNat → fin6Inst (gtIndex inst) = inst) := by
  simp only [instanceOutOfRange, opOf_opWord, instOf_opWord, Bool.or_eq_false_iff,
    Bool.and_eq_false_imp, Bool.and_eq_true, decide_eq_true_eq, decide_eq_false_iff_not,
    not_lt] at h
  exact ⟨fun h2 h7 => fin3Inst_cvIndex (h.1 ⟨h2, h7⟩), fun h8 => fin6Inst_gtIndex (h.2 h8)⟩

theorem sel_eq_of_le_one {sel : BitVec 2} (h : sel.toNat ≤ 1) : sel = 0 ∨ sel = 1 := by
  revert sel; decide

/-- The third check on fields: `sel` is one of the two signals, or that of the output it names. -/
theorem sel_roundTrip_of_inRange {op : BitVec 4} {inst : BitVec 3} {step : BitVec 5}
    {sel : BitVec 2} (h : selectOutOfRange (opWord op inst step sel) = false) :
    (op = 1 → sel = 0 ∨ sel = 1) ∧ (op = 6 ∨ op = 7 → outSel (outIndex sel) = sel) := by
  simp only [selectOutOfRange, opOf_opWord, selOf_opWord, Bool.or_eq_false_iff,
    Bool.and_eq_false_imp, Bool.or_eq_true, beq_iff_eq, decide_eq_false_iff_not, not_lt] at h
  exact ⟨fun h1 => sel_eq_of_le_one (h.1 h1), fun h6 => outSel_outIndex (h.2 h6)⟩

/-- One case per operation code: the unused fields are zero and the used ones are those of the
operation, so the word is the operation's own. -/
theorem encodeWord_operationOf_opWord {op : BitVec 4} {inst : BitVec 3} {step : BitVec 5}
    {sel : BitVec 2} (x : Operands) (hr : reservedBitsSet (opWord op inst step sel) = false)
    (hi : instanceOutOfRange (opWord op inst step sel) = false)
    (hs : selectOutOfRange (opWord op inst step sel) = false) :
    encodeWord (operationOf (opWord op inst step sel) x) = opWord op inst step sel := by
  obtain ⟨hinst, hstep, hsel⟩ := unusedFields_eq_zero hr
  obtain ⟨hcv, hgt⟩ := inst_roundTrip_of_inRange hi
  obtain ⟨hedge, hout⟩ := sel_roundTrip_of_inRange hs
  clear hr hi hs
  obtain ⟨k, hk, rfl⟩ : ∃ k < 16, op = BitVec.ofNat 4 k := ⟨op.toNat, op.isLt, by simp⟩
  simp only [operationOf, opOf_opWord, instOf_opWord, stepOf_opWord, selOf_opWord]
  simp only [usesInst, usesStep, usesSel] at hinst hstep hsel
  interval_cases k
  -- the second code is `edge`, whose `sel` names the signal
  rotate_left
  · obtain rfl | rfl := hedge rfl <;> simp_all [encodeWord]
  all_goals simp_all [encodeWord]

theorem encodeWord_of_decode {w : OpWord} {x : Operands} {op : Instr} (h : decode w x = .ok op) :
    encodeWord op = w := by
  obtain ⟨hr, hi, hs, rfl⟩ := (decode_eq_ok_iff w x op).mp h
  have hw := eq_opWord_of_reservedBitsClear hr
  rw [hw] at hr hi hs ⊢
  exact encodeWord_operationOf_opWord x hr hi hs

/-- Settles O2: the word is the encoder's, so `decode_encode` reads it back at its lanes. -/
theorem decodedWordIsTheEncodersWord : Obligations.DecodedWordIsTheEncodersWord := by
  intro w x op h
  have hw := encodeWord_of_decode h
  refine ⟨hw, ?_⟩
  rw [← hw]
  exact decode_encode op

end Sys2Proof
end

section
/-!
SUPPORT. The rows of the opcode table (30_encoding.md R78, spec/opcode_table.json): every
operation's word is of the row of its mnemonic, and no word is of two rows; and the worked
encodings (R83).
-/

namespace Sys2Proof

theorem encodeWord_matches_row (op : Instr) : Laws.TableRow.Statement op := by
  cases op with
  | tick clk rst n => exact Laws.TableRow.tick clk rst n
  | edgeClk v => exact Laws.TableRow.edgeClk v
  | edgeRst v => exact Laws.TableRow.edgeRst v
  | cvCfg i w => exact Laws.TableRow.cvCfg i w
  | cvAdv i => exact Laws.TableRow.cvAdv i
  | cvRst i => exact Laws.TableRow.cvRst i
  | cvRdstep i => exact Laws.TableRow.cvRdstep i
  | cvRdval i slot o => exact Laws.TableRow.cvRdval i slot o
  | cvWrval i slot o v => exact Laws.TableRow.cvWrval i slot o v
  | gtCfg k w => exact Laws.TableRow.gtCfg k w
  | gtAdv k => exact Laws.TableRow.gtAdv k
  | gtRst k => exact Laws.TableRow.gtRst k
  | gtDecay k n => exact Laws.TableRow.gtDecay k n
  | gtRdstep k => exact Laws.TableRow.gtRdstep k
  | gtRdstate k slot => exact Laws.TableRow.gtRdstate k slot
  | gtRdtrig k => exact Laws.TableRow.gtRdtrig k
  | gtWrstate k slot v => exact Laws.TableRow.gtWrstate k slot v

/-- Two rows differ in a bit that both masks keep. -/
theorem opcodeTable_rows_disjoint : ∀ r ∈ opcodeTable, ∀ r' ∈ opcodeTable,
    r'.pat &&& r.mask = r.pat &&& r'.mask → r' = r := by
  decide

theorem matchesWord_unique {w : OpWord} {r r' : OpcodeRow} (hr : r ∈ opcodeTable)
    (hr' : r' ∈ opcodeTable) (h : r.matchesWord w = true) (h' : r'.matchesWord w = true) :
    r' = r := by
  refine opcodeTable_rows_disjoint r hr r' hr' ?_
  rw [← eq_of_beq h, ← eq_of_beq h', BitVec.and_assoc, BitVec.and_assoc, BitVec.and_comm r'.mask]

/-- Settles O3, from `encodeWord_matches_row` and `matchesWord_unique`. -/
theorem decodedWordMatchesExactlyItsTableRow :
    Obligations.DecodedWordMatchesExactlyItsTableRow := by
  intro w x op h
  obtain ⟨r, hr, hname, hmatch⟩ := encodeWord_matches_row op
  rw [encodeWord_of_decode h] at hmatch
  exact ⟨r, hr, hmatch, hname, fun r' hr' h' => matchesWord_unique hr hr' hmatch h'⟩

/-! ### The worked encodings (R83) -/

/-- Settles O4: each word passes the checks, and the lanes it uses are those of the bus. -/
theorem workedEncodingsDecode : Obligations.WorkedEncodingsDecode :=
  ⟨⟨rfl, fun _ => rfl, fun _ => rfl, rfl, fun _ => rfl⟩,
    fun _ => ⟨rfl, rfl, rfl, rfl, rfl⟩, rfl, rfl⟩

end Sys2Proof
end

section
/-!
SUPPORT. The operand checks and what the checked operations store (30_encoding.md R75 to R77, R79
step 4, 60_exceptions.md R221).
-/

namespace Sys2Proof.Machine

open Sys2Proof.Claims

/-! ### The mark -/

theorem refuse_sameBlock (w : OpWord) (r : Reason) (s : State) : SameBlock s (refuse w r s) :=
  ⟨rfl, rfl, rfl, rfl⟩

/-- Settles O8, from `exec_mark`. -/
theorem operandChecksDecideTheMark : Obligations.OperandChecksDecideTheMark := by
  intro op s hs
  obtain ⟨t, ht⟩ := exec_total op s
  obtain ⟨hkeep, hrefuse⟩ := exec_mark ht
  refine ⟨t, ht, ?_⟩
  cases hwf : op.WellFormed with
  | true => simp [hkeep hwf, hs]
  | false =>
    obtain ⟨r, rfl, -⟩ := hrefuse hwf
    exact ⟨by simp, fun _ => refuse_sameBlock _ r s⟩

/-! ### The words of the checked operations, as numbers -/

theorem opWord_eq_ofNat (op : BitVec 4) (inst : BitVec 3) (step : BitVec 5) (sel : BitVec 2) :
    opWord op inst step sel =
      BitVec.ofNat 16 (4096 * op.toNat + 512 * inst.toNat + 16 * step.toNat + 4 * sel.toNat) := by
  rw [← opWord_toNat, BitVec.ofNat_toNat, BitVec.setWidth_eq]

@[simp] theorem fin3Inst_toNat (i : Fin 3) : (fin3Inst i).toNat = i.val := by revert i; decide

@[simp] theorem fin6Inst_toNat (k : Fin 6) : (fin6Inst k).toNat = k.val := by revert k; decide

theorem encodeWord_cvCfg (i : Fin 3) (w : CfgWord) :
    encodeWord (.cvCfg i w) = BitVec.ofNat 16 (0x2000 + 512 * i.val) := by
  simp [encodeWord, opWord_eq_ofNat]

theorem encodeWord_gtCfg (k : Fin 6) (w : CfgWord) :
    encodeWord (.gtCfg k w) = BitVec.ofNat 16 (0x8000 + 512 * k.val) := by
  simp [encodeWord, opWord_eq_ofNat]

theorem encodeWord_gtWrstate (k : Fin 6) (slot : Slot) (v : Code) :
    encodeWord (.gtWrstate k slot v) =
      BitVec.ofNat 16 (0xF000 + 512 * k.val + 16 * slot.toNat) := by
  simp [encodeWord, opWord_eq_ofNat]

/-! ### Configuration writes -/

section

variable {w : CfgWord} {c : GateCfg} (i : Fin 3) (k : Fin 6) (s : State)

theorem exec_cvCfg_stores (h : validate w = some c) :
    exec (.cvCfg i w) s = .next ((s.updCv i (cvConfigure c)).setResult none) := by
  simp only [exec, execCvCfg, h, done_eq]

theorem exec_cvCfg_refuses (h : validate w = none) : exec (.cvCfg i w) s =
    .next (refuse (BitVec.ofNat 16 (0x2000 + 512 * i.val)) .badDirection s) := by
  simp only [exec, execCvCfg, h, encodeWord_cvCfg]

theorem exec_gtCfg_stores (h : validate w = some c) :
    exec (.gtCfg k w) s = .next ((s.updGt k (gateConfigure c)).setResult none) := by
  simp only [exec, execGtCfg, h, done_eq]

theorem exec_gtCfg_refuses (h : validate w = none) : exec (.gtCfg k w) s =
    .next (refuse (BitVec.ofNat 16 (0x8000 + 512 * k.val)) .badDirection s) := by
  simp only [exec, execGtCfg, h, encodeWord_gtCfg]

theorem storesGate_of_validate (h : validate w = some c) : StoresGate w c := by
  obtain ⟨hlen, hdir, hsplit, h1, h2, hfill, hrun⟩ := validate_fields h
  exact ⟨⟨hlen, hdir, hsplit, h1, h2⟩, hfill, hrun⟩

end

/-- The model's clamp over integers is the statements' one over naturals (R122). -/
theorem clamp_clamped {c : SeqCfg} (hc : c.Legal) (r : Runtime) : Clamped c r (clamp c r) := by
  obtain ⟨h1, h32, -⟩ := hc
  have hlast : ((slotOf (c.length.toNat - 1)).toNat : Int) = c.length.toNat - 1 :=
    slotOf_toNat (by omega) (by omega)
  have hstep : (clamp c r).step.toNat = min r.step.toNat (c.length.toNat - 1) := by
    simp only [clamp, Runtime.pos, SeqCfg.L]
    split
    · dsimp only; omega
    · omega
  rw [clamp_eq]
  exact ⟨hstep, rfl, rfl, rfl, rfl⟩

/-- Settles O37, by whether the word validates. -/
theorem configurationWriteClampsOrRefuses : Obligations.ConfigurationWriteClampsOrRefuses := by
  intro s w
  refine ⟨fun hdir => ?_, fun hdir => ?_⟩
  · obtain ⟨c, hc⟩ := Option.ne_none_iff_exists'.mp (mt (validate_eq_none_iff w).mp hdir)
    have hstore := storesGate_of_validate hc
    have hclamp := clamp_clamped (validate_legal hc).1
    refine ⟨fun i => ⟨_, exec_cvCfg_stores i s hc, ?_⟩, fun k => ⟨_, exec_gtCfg_stores k s hc, ?_⟩⟩
    · rw [setResult_cvEngine, updCv_cvEngine, if_pos rfl]
      exact ⟨hstore.1, hclamp _, rfl, rfl⟩
    · rw [setResult_gtTrack, updGt_gtTrack, if_pos rfl]
      exact ⟨hstore, hclamp _, rfl, rfl⟩
  · have hnone := (validate_eq_none_iff w).mpr hdir
    exact ⟨fun i => ⟨_, exec_cvCfg_refuses i s hnone, refuse_sameBlock _ _ s, rfl⟩,
      fun k => ⟨_, exec_gtCfg_refuses k s hnone, refuse_sameBlock _ _ s, rfl⟩⟩

/-! ### Gate-table writes -/

theorem gtRead_gtWrite {m : Memory TriState} (h : Memory.wf Config.unlistedGate 32 m = true)
    (slot slot' : Slot) (v : TriState) :
    gtRead (gtWrite m slot v) slot' = if slot' = slot then v else gtRead m slot' := by
  split
  · next heq =>
    subst heq
    exact Memory.read_write_same _ _ _ h
  · next hne => exact Memory.read_write_other _ _ (mt gtAddr_inj.mp hne)

theorem exec_gtWrstate_stores {v : Code} {x : TriState} (k : Fin 6) (slot : Slot) (s : State)
    (h : triStateOf v = some x) : exec (.gtWrstate k slot v) s =
    .next ((s.updGt k fun g => { g with pat := gtWrite g.pat slot x }).setResult none) := by
  simp only [exec, execGtWrstate, h, done_eq]

theorem exec_gtWrstate_refuses {v : Code} (k : Fin 6) (slot : Slot) (s : State)
    (h : triStateOf v = none) : exec (.gtWrstate k slot v) s =
    .next (refuse (BitVec.ofNat 16 (0xF000 + 512 * k.val + 16 * slot.toNat)) .badTriState s) := by
  simp only [exec, execGtWrstate, h, encodeWord_gtWrstate]

/-- Settles O39, by whether the code names a tri-state value. -/
theorem gateWriteChangesOneSlotOrRefuses : Obligations.GateWriteChangesOneSlotOrRefuses := by
  intro s k slot v
  refine ⟨fun hv hwf => ?_, fun hv => ?_⟩
  · obtain ⟨x, hx⟩ := Option.ne_none_iff_exists'.mp (mt (triStateOf_eq_none_iff v).mp hv.not_gt)
    refine ⟨_, exec_gtWrstate_stores k slot s hx, ⟨rfl, rfl⟩, fun slot' => ?_⟩
    rw [setResult_gtTrack, updGt_gtTrack, if_pos rfl, ← triStateOf_eq_some hx]
    exact gtRead_gtWrite hwf slot slot' x
  · have hnone := (triStateOf_eq_none_iff v).mpr hv
    exact ⟨_, exec_gtWrstate_refuses k slot s hnone, refuse_sameBlock _ _ s, rfl⟩

end Sys2Proof.Machine
end

section
/-!
SUPPORT. The pseudo-operations (30_encoding.md R82): 0.0 makes no edge and 1.0 makes one exactly
after a low-or-equal sample, so the first cycle of a pulse decides what it delivers
(43_dispatcher.md R200).
-/

namespace Sys2Proof.Machine

open Sys2Proof.Claims

/-! ### Edges of the two samples -/

@[simp] theorem rising_sampleZero (prev : Sample) : rising prev sampleZero = false := by
  have hlow : sampleHigh sampleZero = false := by decide
  rw [rising, hlow, Bool.and_false]

@[simp] theorem rising_sampleOne (prev : Sample) : rising prev sampleOne = sampleLow prev := by
  have hhigh : sampleHigh sampleOne = true := by decide
  rw [rising, hhigh, Bool.and_true]

/-! ### One edge, in any coincident order -/

section

variable (o : CoincidentOrder) (b : BackwardSections) (p : U32) (ce re : Bool)

theorem dispatchCv_clock : dispatchCv o b ce false =
    fun e => if ce then cvAdvance b e else e := by
  cases o <;> rfl

theorem dispatchCv_reset : dispatchCv o b false re =
    fun e => if re then cvReset e else e := by
  cases o <;> rfl

theorem dispatchGt_clock : dispatchGt o b p ce false =
    fun g => if ce then gateAdvance b p g else g := by
  cases o <;> rfl

theorem dispatchGt_reset : dispatchGt o b p false re =
    fun g => if re then gateReset g else g := by
  cases o <;> rfl

end

/-! ### Two cycles -/

theorem execAll_tick (clk rst : Sample) (n : U32) (ops : List Instr) (s : State) :
    execAll (.tick clk rst n :: ops) s =
      execAll ops ((tickIn engineOrder clk rst n s).setResult none) :=
  execAll_cons ops rfl

/-- A cycle at 0.0 on both signals delivers no edge: it only decays the trigger counters. -/
theorem execAll_idle (n : U32) (s : State) :
    ∃ t, execAll (idle n) s = .next t ∧ t.prevClk = sampleZero ∧ t.prevRst = sampleZero ∧
      SameInterface s t ∧ (∀ i, t.cvEngine i = s.cvEngine i) ∧
      ∀ k, t.gtTrack k = gateDecay n (s.gtTrack k) :=
  ⟨_, execAll_tick .., by simp, by simp, ⟨by simp, by simp⟩, by simp [dispatchCv_clock],
    by simp [dispatchGt_clock]⟩

/-- A pulse delivers the edges of its first cycle. -/
theorem execAll_tick_idle (clk rst : Sample) (n : U32) (s : State) :
    ∃ t, execAll (.tick clk rst n :: idle n) s = .next t ∧ PulseLeaves n s t
      (dispatchCv Config.coincidentOrder Config.backwardSections (rising s.prevClk clk)
        (rising s.prevRst rst))
      (dispatchGt Config.coincidentOrder Config.backwardSections Config.pulseSamples
        (rising s.prevClk clk) (rising s.prevRst rst)) := by
  obtain ⟨t, ht, hclk, hrst, ⟨hmark, hpend⟩, hcv, hgt⟩ :=
    execAll_idle n ((tickIn engineOrder clk rst n s).setResult none)
  refine ⟨t, (execAll_tick ..).trans ht, hclk, hrst, ⟨?_, ?_⟩, fun i => ?_, fun k => ?_⟩
  · rw [hmark, setResult_refused, tickIn_refused]
  · rw [hpend, setResult_pending, tickIn_pending]
  · rw [hcv, setResult_cvEngine, tickIn_cvEngine]
  · rw [hgt, setResult_gtTrack, tickIn_gtTrack]

/-- Settles O23, from `execAll_idle` and `execAll_tick_idle` at the samples of each pulse. -/
theorem idleIsNoEdgeAndPulseIsOne : Obligations.IdleIsNoEdgeAndPulseIsOne := by
  intro n s
  refine ⟨execAll_idle n s, ?_, ?_, ?_⟩
  · have h := execAll_tick_idle sampleOne sampleZero n s
    rw [rising_sampleOne, rising_sampleZero, dispatchCv_clock, dispatchGt_clock] at h
    exact h
  · have h := execAll_tick_idle sampleZero sampleOne n s
    rw [rising_sampleOne, rising_sampleZero, dispatchCv_reset, dispatchGt_reset] at h
    exact h
  · have h := execAll_tick_idle sampleOne sampleOne n s
    rw [rising_sampleOne, rising_sampleOne] at h
    exact h

end Sys2Proof.Machine
end

section
/-!
SUPPORT. The Edge Detector (40_edge_detector.md): the threshold on values (R100, R101), the two edge
operations (R102), and what is kept of a signal between two of its evaluations (R103 to R106).
-/

namespace Sys2Proof.Machine

open Sys2Proof.Claims

/-! ### The threshold on values -/

theorem sampleHigh_iff (v : Sample) :
    sampleHigh v = true ↔ ¬ IsNaN v ∧ 1 / 2 < binary32Value v := by
  simp [sampleHigh, f32Gt_iff, edgeThreshold_not_isNaN, binary32Value_edgeThreshold]

theorem sampleLow_iff (v : Sample) :
    sampleLow v = true ↔ ¬ IsNaN v ∧ binary32Value v ≤ 1 / 2 := by
  simp [sampleLow, f32Le_iff, edgeThreshold_not_isNaN, binary32Value_edgeThreshold]

theorem rising_iff (prev cur : Sample) :
    rising prev cur = true ↔ sampleLow prev = true ∧ sampleHigh cur = true := by
  rw [rising, Bool.and_eq_true]

/-- Settles O20, from the values of the two comparators. -/
theorem risingEdgeCrossesTheThreshold : Obligations.RisingEdgeCrossesTheThreshold := by
  refine ⟨fun v => ⟨sampleHigh_iff v, sampleLow_iff v⟩, fun prev cur => ?_⟩
  rw [rising_iff, sampleLow_iff, sampleHigh_iff]

theorem sampleLow_eq_false_of_rising {prev v : Sample} (h : rising prev v = true) :
    sampleLow v = false := by
  obtain ⟨-, hhigh⟩ := (rising_iff prev v).mp h
  obtain ⟨-, habove⟩ := (sampleHigh_iff v).mp hhigh
  rw [Bool.eq_false_iff, Ne, sampleLow_iff]
  exact fun hlow => absurd hlow.2 habove.not_ge

theorem rising_eq_false_of_sampleLow {prev : Sample} (h : sampleLow prev = false) (cur : Sample) :
    rising prev cur = false := by
  rw [rising, h, Bool.false_and]

/-! ### One evaluation -/

theorem exec_edgeClk (v : Sample) (s : State) : exec (.edgeClk v) s =
    .next ((s.setPrevClk v).setResult (some (.bool (rising s.prevClk v)))) := rfl

theorem exec_edgeRst (v : Sample) (s : State) : exec (.edgeRst v) s =
    .next ((s.setPrevRst v).setResult (some (.bool (rising s.prevRst v)))) := rfl

/-- Settles O21: `rising` is the conjunction the statement writes out. -/
theorem edgeOperationsEvaluateOneSignal : Obligations.EdgeOperationsEvaluateOneSignal :=
  fun v s => ⟨exec_edgeClk v s, exec_edgeRst v s⟩

theorem exec_tick (clk rst : Sample) (n : U32) (s : State) : exec (.tick clk rst n) s =
    .next ((tickIn engineOrder clk rst n s).setResult none) := rfl

/-- A cycle delivers the edges its two evaluations find (43_dispatcher.md R201). -/
theorem exec_tick_delivered (clk rst : Sample) (n : U32) (s : State) :
    ∃ z, exec (.tick clk rst n) s = .next z ∧
      Delivered (rising s.prevClk clk) (rising s.prevRst rst) n s z := by
  refine ⟨_, exec_tick clk rst n s, fun i => ?_, fun k => ?_⟩
  · rw [setResult_cvEngine, tickIn_cvEngine]
  · rw [setResult_gtTrack, tickIn_gtTrack]

/-! ### The memory of a signal -/

theorem prevClk_of_evaluatesClk {op : Instr} {v : Sample} {s t : State} (h : exec op s = .next t)
    (hop : EvaluatesClk op v) : t.prevClk = v := by
  obtain rfl | ⟨r, n, rfl⟩ := hop
  · rw [exec_edgeClk] at h
    rw [← Host.Outcome.next.inj h, setResult_prevClk, setPrevClk_prevClk]
  · rw [exec_tick] at h
    rw [← Host.Outcome.next.inj h, setResult_prevClk, tickIn_prevClk]

theorem prevRst_of_evaluatesRst {op : Instr} {v : Sample} {s t : State} (h : exec op s = .next t)
    (hop : EvaluatesRst op v) : t.prevRst = v := by
  obtain rfl | ⟨c, n, rfl⟩ := hop
  · rw [exec_edgeRst] at h
    rw [← Host.Outcome.next.inj h, setResult_prevRst, setPrevRst_prevRst]
  · rw [exec_tick] at h
    rw [← Host.Outcome.next.inj h, setResult_prevRst, tickIn_prevRst]

theorem prevClk_kept {op : Instr} {s t : State} (h : exec op s = .next t)
    (hop : ∀ x, ¬ EvaluatesClk op x) : t.prevClk = s.prevClk := by
  obtain ⟨-, hkept | ⟨v, hedge, -⟩ | ⟨c, r, n, htick, -⟩, -⟩ := exec_edgeMemory h
  · exact hkept
  · exact absurd (.inl hedge) (hop v)
  · exact absurd (.inr ⟨r, n, htick⟩) (hop c)

theorem prevRst_kept {op : Instr} {s t : State} (h : exec op s = .next t)
    (hop : ∀ x, ¬ EvaluatesRst op x) : t.prevRst = s.prevRst := by
  obtain ⟨-, -, hkept | ⟨v, hedge, -⟩ | ⟨c, r, n, htick, -⟩⟩ := exec_edgeMemory h
  · exact hkept
  · exact absurd (.inl hedge) (hop v)
  · exact absurd (.inr ⟨c, n, htick⟩) (hop r)

/-- What every operation of a list keeps, the list keeps. -/
theorem execAll_kept {α : Type} {f : State → α} {ops : List Instr} {s u : State}
    (hops : ∀ op ∈ ops, ∀ s t, exec op s = .next t → f t = f s) (h : execAll ops s = .next u) :
    f u = f s := by
  induction ops generalizing s with
  | nil =>
    injection h with h
    rw [h]
  | cons op ops ih =>
    obtain ⟨hop, hrest⟩ := List.forall_mem_cons.mp hops
    obtain ⟨t, ht⟩ := exec_total op s
    rw [execAll_cons ops ht] at h
    exact (ih hrest h).trans (hop s t ht)

/-- Settles O22: the memory still holds the evaluated sample, and an edge after a memory that is not
low-or-equal is no edge. -/
theorem noEdgeWithoutALowSampleBetween : Obligations.NoEdgeWithoutALowSampleBetween := by
  refine ⟨fun _ _ => sampleLow_eq_false_of_rising, fun op mid v w s t u hv hop hmid =>
    ⟨fun hev hnot => ?_, fun hev hnot => ?_⟩⟩
  · have hmem : u.prevClk = v :=
      (execAll_kept (fun m hm _ _ h => prevClk_kept h (hnot m hm)) hmid).trans
        (prevClk_of_evaluatesClk hop hev)
    have hno : rising u.prevClk w = false := rising_eq_false_of_sampleLow (hmem ▸ hv) w
    refine ⟨hmem, ⟨_, exec_edgeClk w u, by rw [setResult_result, hno]⟩, fun r n => ?_⟩
    exact hno ▸ exec_tick_delivered w r n u
  · have hmem : u.prevRst = v :=
      (execAll_kept (fun m hm _ _ h => prevRst_kept h (hnot m hm)) hmid).trans
        (prevRst_of_evaluatesRst hop hev)
    have hno : rising u.prevRst w = false := rising_eq_false_of_sampleLow (hmem ▸ hv) w
    refine ⟨hmem, ⟨_, exec_edgeRst w u, by rw [setResult_result, hno]⟩, fun c n => ?_⟩
    exact hno ▸ exec_tick_delivered c w n u

end Sys2Proof.Machine
end

section
/-!
SUPPORT. The rules of the step-advance automaton over natural numbers (41_cv_engine.md R123 to
R128), and the operations of the engines: an advance and a reset (R130 to R132, 42_gate_engine.md
R167, R170), the reads, and what a CV operation leaves unchanged.
-/

namespace Sys2Proof.Machine

open Sys2Proof.Claims

/-! ### Play-head values -/

theorem at5_toNat {n : Nat} (h : n < 32) : (at5 n).toNat = n := by
  rw [BitVec.toNat_ofNat, Nat.mod_eq_of_lt h]

theorem slotOf_succ (n : Nat) : slotOf (n + 1) = at5 (n + 1) := slotOf_natCast (n + 1)

theorem slotOf_pred {n : Nat} (h : 1 ≤ n) : slotOf (n - 1) = at5 (n - 1) := by
  rw [at5, ← slotOf_natCast, Nat.cast_sub h, Nat.cast_one]

theorem slotOf_splitPoint (c : SeqCfg) : slotOf c.S = c.splitPoint := by
  rw [slotOf_natCast, BitVec.ofNat_toNat, BitVec.setWidth_eq]

/-- The model's test for a completed section and the statements' one agree (R24). -/
theorem succ_toNat_eq_iff (x : U32) (k : BitVec 7) :
    ((x + 1).toNat : Int) = (k.toNat : Int) ↔ plusOne x = k.toNat := by
  rw [Nat.cast_inj, BitVec.toNat_add]
  rfl

theorem SeqCfg.Legal.length_pos {c : SeqCfg} (hc : c.Legal) : 0 < c.length.toNat := hc.1

theorem SeqCfg.Legal.length_le {c : SeqCfg} (hc : c.Legal) : c.length.toNat ≤ 32 := hc.2.1

/-! ### Rules without sections -/

section

variable (c : SeqCfg) (r : Runtime)

theorem fwdNosec_eq : fwdNosec c r = { r with
    step := if c.length.toNat ≤ r.step.toNat + 1 then 0 else at5 (r.step.toNat + 1) } := by
  have hend : r.pos + 1 ≥ c.L ↔ c.length.toNat ≤ r.step.toNat + 1 := by
    simp only [Runtime.pos, SeqCfg.L]; omega
  simp only [fwdNosec, hend, ← slotOf_succ]
  split <;> rfl

theorem bwdNosec_eq (hc : c.Legal) : bwdNosec c r = { r with
    step := if r.step.toNat = 0 then at5 (c.length.toNat - 1) else at5 (r.step.toNat - 1) } := by
  have hend : r.pos - 1 < 0 ↔ r.step.toNat = 0 := by
    simp only [Runtime.pos]; omega
  simp only [bwdNosec, hend]
  split
  · rw [slotOf_pred hc.length_pos]
  · rw [slotOf_pred (Nat.one_le_iff_ne_zero.mpr ‹_›)]

theorem ppCv_eq (hc : c.Legal) : ppCv c r =
    if r.pf then
      if c.length.toNat ≤ r.step.toNat + 1 then
        { r with step := at5 (c.length.toNat - 1), pf := false }
      else { r with step := at5 (r.step.toNat + 1) }
    else
      if r.step.toNat = 0 then { r with step := 0, pf := true }
      else { r with step := at5 (r.step.toNat - 1) } := by
  have htop : r.pos + 1 ≥ c.L ↔ c.length.toNat ≤ r.step.toNat + 1 := by
    simp only [Runtime.pos, SeqCfg.L]; omega
  have hbottom : r.pos - 1 < 0 ↔ r.step.toNat = 0 := by
    simp only [Runtime.pos]; omega
  simp only [ppCv, htop, hbottom, slotOf_pred hc.length_pos, slotOf_succ]
  split
  · rfl
  · split
    · rfl
    · rw [slotOf_pred (Nat.one_le_iff_ne_zero.mpr ‹_›)]

end

/-! ### Rules with sections -/

/-- The rule all sectioned advances share, over natural numbers: `last₁` and `last₂` say that a step
is the last one of its section, `top₁` and `top₂` are where the sections begin, and `move` is the
travel within a section. -/
def sectionRule (last₁ last₂ : Nat → Prop) [DecidablePred last₁] [DecidablePred last₂]
    (top₁ top₂ : Slot) (move : Nat → Nat) (c : SeqCfg) (r : Runtime) : Runtime :=
  if r.s2 = false then
    if last₁ r.step.toNat then
      if plusOne r.c1 = c.sec1Reps.toNat then { r with c1 := 0, s2 := true, step := top₂ }
      else { r with c1 := r.c1 + 1, step := top₁ }
    else { r with step := at5 (move r.step.toNat) }
  else
    if last₂ r.step.toNat then
      if plusOne r.c2 = c.sec2Reps.toNat then
        { r with c2 := 0, c1 := 0, s2 := false, step := top₁ }
      else { r with c2 := r.c2 + 1, step := top₂ }
    else { r with step := at5 (move r.step.toNat) }

/-- The model's decision tree is that rule where its tests `p` and `q` are the ends of the sections
and its move to `n` within a section is the travel. -/
theorem sectionRule_of_tree {last₁ last₂ : Nat → Prop} [DecidablePred last₁]
    [DecidablePred last₂] {move : Nat → Nat} {c : SeqCfg} {r : Runtime} {p q : Prop} [Decidable p]
    [Decidable q] {n : Slot} (top₁ top₂ : Slot) (hp : p ↔ last₁ r.step.toNat)
    (hq : q ↔ last₂ r.step.toNat) (h₁ : ¬ p → n = at5 (move r.step.toNat))
    (h₂ : ¬ q → n = at5 (move r.step.toNat)) :
    (if !r.s2 then
      if p then
        if ((r.c1 + 1).toNat : Int) = c.r1 then { r with c1 := 0, s2 := true, step := top₂ }
        else { r with c1 := r.c1 + 1, step := top₁ }
      else { r with step := n }
    else
      if q then
        if ((r.c2 + 1).toNat : Int) = c.r2 then
          { r with c2 := 0, c1 := 0, s2 := false, step := top₁ }
        else { r with c2 := r.c2 + 1, step := top₂ }
      else { r with step := n }) = sectionRule last₁ last₂ top₁ top₂ move c r := by
  simp only [sectionRule, SeqCfg.r1, SeqCfg.r2, succ_toNat_eq_iff, ← hp, ← hq,
    Bool.not_eq_true']
  congr 1
  · exact ite_congr rfl (fun _ => rfl) fun h => by rw [h₁ h]
  · exact ite_congr rfl (fun _ => rfl) fun h => by rw [h₂ h]

section

variable {c : SeqCfg} (r : Runtime)

/-- FWD_SEC (R126): upward, to `splitPoint - 1` and from there to `length - 1`. -/
theorem fwdSec_eq : fwdSec c r = sectionRule (c.splitPoint.toNat ≤ · + 1)
    (c.length.toNat ≤ · + 1) 0 c.splitPoint (· + 1) c r := by
  have h₁ : r.pos + 1 ≥ c.S ↔ c.splitPoint.toNat ≤ r.step.toNat + 1 := by
    simp only [Runtime.pos, SeqCfg.S]; omega
  have h₂ : r.pos + 1 ≥ c.L ↔ c.length.toNat ≤ r.step.toNat + 1 := by
    simp only [Runtime.pos, SeqCfg.L]; omega
  have hup : slotOf (r.pos + 1) = at5 (r.step.toNat + 1) := slotOf_succ _
  simp only [fwdSec, slotOf_splitPoint]
  exact sectionRule_of_tree _ _ h₁ h₂ (fun _ => hup) (fun _ => hup)

/-- BWD_SEC_CM (R127): downward, from `length - 1` to `splitPoint` and from there to 0. -/
theorem bwdSecCm_eq (hs : Sectioned c) : bwdSecCm c r = sectionRule (· ≤ c.splitPoint.toNat)
    (· = 0) (at5 (c.length.toNat - 1)) (at5 (c.splitPoint.toNat - 1)) (· - 1) c r := by
  obtain ⟨hS, hSL⟩ := hs
  have h₁ : r.pos - 1 < c.S ↔ r.step.toNat ≤ c.splitPoint.toNat := by
    simp only [Runtime.pos, SeqCfg.S]; omega
  have h₂ : r.pos - 1 < 0 ↔ r.step.toNat = 0 := by
    simp only [Runtime.pos]; omega
  simp only [bwdSecCm, slotOf_pred hS, slotOf_pred (hS.trans hSL)]
  exact sectionRule_of_tree _ _ h₁ h₂ (fun h => slotOf_pred (by omega))
    (fun h => slotOf_pred (by omega))

/-- BWD_SEC_RM (R128): downward, from `splitPoint - 1` to 0 and from `length - 1` to there. -/
theorem bwdSecRm_eq (hs : Sectioned c) : bwdSecRm c r = sectionRule (· = 0)
    (· ≤ c.splitPoint.toNat) (at5 (c.splitPoint.toNat - 1)) (at5 (c.length.toNat - 1)) (· - 1) c
    r := by
  obtain ⟨hS, hSL⟩ := hs
  have h₁ : r.pos - 1 < 0 ↔ r.step.toNat = 0 := by
    simp only [Runtime.pos]; omega
  have h₂ : r.pos - 1 < c.S ↔ r.step.toNat ≤ c.splitPoint.toNat := by
    simp only [Runtime.pos, SeqCfg.S]; omega
  simp only [bwdSecRm, slotOf_pred hS, slotOf_pred (hS.trans hSL)]
  exact sectionRule_of_tree _ _ h₁ h₂ (fun h => slotOf_pred (by omega))
    (fun h => slotOf_pred (by omega))

end

/-! ### Which rule an advance takes (R129, 42_gate_engine.md R164) -/

section

variable {b : BackwardSections} {c : SeqCfg} {g : GateCfg} (r : Runtime)

theorem advanceCv_pingpong (hd : c.direction = .pingpong) : advanceCv b c r = ppCv c r := by
  simp [advanceCv, hd]

theorem advanceCv_forward (hd : c.direction = .forward) (hs : ¬ Sectioned c) :
    advanceCv b c r = fwdNosec c r := by
  simp [advanceCv, hd, sectionsEnabled_iff, hs]

theorem advanceCv_backward (hd : c.direction = .backward) (hs : ¬ Sectioned c) :
    advanceCv b c r = bwdNosec c r := by
  simp [advanceCv, hd, sectionsEnabled_iff, hs]

theorem advanceCv_forward_sectioned (hd : c.direction = .forward) (hs : Sectioned c) :
    advanceCv b c r = fwdSec c r := by
  simp [advanceCv, hd, sectionsEnabled_iff, hs]

theorem advanceCv_backward_sectioned (hd : c.direction = .backward) (hs : Sectioned c) :
    advanceCv b c r = bwdSec b c r := by
  simp [advanceCv, hd, sectionsEnabled_iff, hs]

/-- The advance under BACKWARD_SECTIONS at CODE_MIRROR, the value of log 10. -/
theorem advanceCv_backward_codeMirror (hd : c.direction = .backward) (hs : Sectioned c) :
    advanceCv Config.backwardSections c r = sectionRule (· ≤ c.splitPoint.toNat) (· = 0)
      (at5 (c.length.toNat - 1)) (at5 (c.splitPoint.toNat - 1)) (· - 1) c r :=
  (advanceCv_backward_sectioned r hd hs).trans (bwdSecCm_eq r hs)

/-- A gate track differs in the pingpong and the fill only. -/
theorem advanceGate_eq_advanceCv (hd : g.seq.direction ≠ .pingpong)
    (hf : g.seq.direction = .forward → ¬ Sectioned g.seq) :
    advanceGate b g r = advanceCv b g.seq r := by
  cases hdir : g.seq.direction with
  | forward => simp [advanceGate, advanceCv, hdir, sectionsEnabled_iff, hf hdir]
  | backward => simp [advanceGate, advanceCv, hdir]
  | pingpong => exact absurd hdir hd

end

/-! ### The operations on an engine -/

section

variable (s : State) (i : Fin 3) {k : Fin 6}

theorem exec_cvAdv : exec (.cvAdv i) s = .next (afterCv s i
    (advanceCv Config.backwardSections (s.cvEngine i).cfg (s.cvEngine i).rt)) := rfl

theorem exec_cvRst : exec (.cvRst i) s = .next (afterCv s i
    (resetEngine (s.cvEngine i).cfg (s.cvEngine i).rt)) := rfl

/-- On a running track the advance moves the registers and then sets the trigger (R166, R167). -/
theorem gateAdvance_of_running (b : BackwardSections) (p : U32) {g : GateTrack}
    (h : g.cfg.running = true) : gateAdvance b p g = { g with
      rt := advanceGate b g.cfg g.rt
      tc := if gtRead g.pat (advanceGate b g.cfg g.rt).step = .off then g.tc else p } := by
  rw [gateAdvance, if_pos h, triggerSet, nonOff]
  by_cases hoff : gtRead g.pat (advanceGate b g.cfg g.rt).step = .off <;> simp [hoff]

theorem exec_gtAdv (h : (s.gtTrack k).cfg.running = true) : exec (.gtAdv k) s = .next (afterGt s k
    (advanceGate Config.backwardSections (s.gtTrack k).cfg (s.gtTrack k).rt)) := by
  simp only [exec, execGtAdv, done_eq, State.updGt, gateAdvance_of_running _ _ h, afterGt]

theorem exec_gtRst (h : (s.gtTrack k).cfg.running = true) : exec (.gtRst k) s = .next
    ((s.setGt k { s.gtTrack k with
      rt := resetEngine (s.gtTrack k).cfg.seq (s.gtTrack k).rt }).setResult none) := by
  simp only [exec, execGtRst, done_eq, State.updGt, gateReset, if_pos h]

theorem afterCv_cvEngine (rt : Runtime) :
    (afterCv s i rt).cvEngine i = { s.cvEngine i with rt := rt } := setCv_cvEngine_self ..

end

/-- The model's start position over integers is the statements' one (R130). -/
theorem resetEngine_eq_startOf {c : SeqCfg} (r : Runtime) (hc : c.Legal) :
    resetEngine c r = startOf c := by
  simp only [resetEngine, startOf, SeqCfg.L, slotOf_pred hc.length_pos]

/-! ### One advance, one reset -/

/-- Settles O24, from `fwdNosec_eq`. -/
theorem forwardWithoutSectionsWrapsAtLength : Obligations.ForwardWithoutSectionsWrapsAtLength := by
  refine fun s => ⟨fun i hd hs => ?_, fun k hrun hd hs => ?_⟩
  · rw [exec_cvAdv, advanceCv_forward _ hd hs, fwdNosec_eq]
  · rw [exec_gtAdv s hrun, advanceGate_eq_advanceCv _ (by simp [hd]) fun _ => hs,
      advanceCv_forward _ hd hs, fwdNosec_eq]

/-- Settles O25, from `bwdNosec_eq`. -/
theorem backwardWithoutSectionsWrapsBelowZero :
    Obligations.BackwardWithoutSectionsWrapsBelowZero := by
  refine fun s => ⟨fun i hc hd hs => ?_, fun k hc hrun hd hs => ?_⟩
  · rw [exec_cvAdv, advanceCv_backward _ hd hs, bwdNosec_eq _ _ hc]
  · rw [exec_gtAdv s hrun, advanceGate_eq_advanceCv _ (by simp [hd]) fun _ => hs,
      advanceCv_backward _ hd hs, bwdNosec_eq _ _ hc.1]

/-- Settles O26, from `ppCv_eq`. -/
theorem cvPingpongTurnsWithoutSkipping : Obligations.CvPingpongTurnsWithoutSkipping := by
  intro s i e hc hd
  rw [exec_cvAdv, advanceCv_pingpong _ hd, ppCv_eq _ _ hc]

/-- Settles O28, from `fwdSec_eq`. -/
theorem forwardWithSectionsRepeatsAndSwitches :
    Obligations.ForwardWithSectionsRepeatsAndSwitches := by
  intro s i e hd hs
  rw [exec_cvAdv, advanceCv_forward_sectioned _ hd hs, fwdSec_eq]
  rfl

/-- Settles O30, from `bwdSecCm_eq`. -/
theorem backwardWithSectionsMirrorsForward : Obligations.BackwardWithSectionsMirrorsForward := by
  refine fun s => ⟨fun i hd hs => ?_, fun k hrun hd hs => ?_⟩
  · rw [exec_cvAdv, advanceCv_backward_codeMirror _ hd hs]
    rfl
  · rw [exec_gtAdv s hrun, advanceGate_eq_advanceCv _ (by simp [hd]) (by simp [hd]),
      advanceCv_backward_codeMirror _ hd hs]
    rfl

/-- Settles O31, from `bwdSecRm_eq`. -/
theorem rangeMirrorKeepsTheSectionRanges : Obligations.RangeMirrorKeepsTheSectionRanges := by
  intro c r hd hs
  have hcv := (advanceCv_backward_sectioned (b := .rangeMirror) r hd hs).trans (bwdSecRm_eq r hs)
  exact ⟨hcv, (advanceGate_eq_advanceCv r (by simp [hd]) (by simp [hd])).trans hcv⟩

/-- Settles O32, from `resetEngine_eq_startOf`. -/
theorem resetReturnsToTheStartPosition : Obligations.ResetReturnsToTheStartPosition := by
  refine fun s => ⟨fun i hc => ?_, fun k hc hrun => ?_⟩
  · rw [exec_cvRst, resetEngine_eq_startOf _ hc]
  · rw [exec_gtRst s hrun, resetEngine_eq_startOf _ hc.1]

/-! ### The operations that change nothing but the result bus -/

theorem triggerActive_eq (tc : U32) : triggerActive tc = decide (tc ≠ 0) := by
  rw [triggerActive, decide_eq_decide, Nat.pos_iff_ne_zero, ne_eq, ne_eq, ← BitVec.toNat_inj]
  rfl

/-- Settles O41, from `triggerActive_eq`; the other reads answer their register by definition. -/
theorem readsAnswerAndChangeNothing : Obligations.ReadsAnswerAndChangeNothing := by
  refine fun s => ⟨fun _ => rfl, fun _ _ _ => rfl, fun _ => rfl, fun _ _ => rfl, fun k => ?_⟩
  rw [← triggerActive_eq]
  rfl

/-! ### The frame of the CV operations -/

/-- The operations of one CV engine that write its state. -/
def WritesCv (op : Instr) (i : Fin 3) : Prop :=
  op = .cvAdv i ∨ op = .cvRst i ∨ (∃ w, op = .cvCfg i w) ∨ ∃ slot o v, op = .cvWrval i slot o v

section

variable {op : Instr} {s t : State} {i j : Fin 3} {k : Fin 6} {e : CvEngine} {g : GateTrack}

theorem WritesCv.other_cvEngine (hop : WritesCv op i) (h : CvEffect op s j e) (hne : j ≠ i) :
    e = s.cvEngine j := by
  cases h with
  | none => rfl
  | adv h | rst h | cfg _ _ h _ | wrval _ _ _ h | tick _ _ _ h =>
    subst h
    simp [WritesCv, hne] at hop

theorem WritesCv.gtTrack (hop : WritesCv op i) (h : GtEffect op s k g) : g = s.gtTrack k := by
  cases h with
  | none => rfl
  | adv h | rst h | decay _ h | cfg _ _ h _ | wrstate _ _ _ h _ | tick _ _ _ h =>
    subst h
    simp [WritesCv] at hop

theorem WritesCv.not_evaluates (hop : WritesCv op i) (x : Sample) :
    ¬ EvaluatesClk op x ∧ ¬ EvaluatesRst op x := by
  obtain rfl | rfl | ⟨w, rfl⟩ | ⟨slot, o, v, rfl⟩ := hop <;> simp [EvaluatesClk, EvaluatesRst]

theorem CvEffect.rt_of_cvCfg {w : CfgWord} (h : CvEffect (.cvCfg i w) s i e) :
    e.rt = { (s.cvEngine i).rt with step := e.rt.step } := by
  cases h with
  | none => rfl
  | cfg w' c _ _ => exact clamp_eq ..
  | _ => contradiction

theorem CvEffect.rt_of_cvWrval {slot : Slot} {o : Fin 3} {v : CvValue}
    (h : CvEffect (.cvWrval i slot o v) s i e) : e.rt = (s.cvEngine i).rt := by
  cases h with
  | none => rfl
  | wrval _ _ _ _ => rfl
  | _ => contradiction

/-- Every element reads as before except the one `cv.wrval` stores to (R56, R136). -/
theorem CvEffect.read_other (h : CvEffect op s i e) {a : Nat}
    (ha : ∀ slot o v, op = .cvWrval i slot o v → a ≠ cvAddr slot o) :
    Memory.read Config.unlistedCv e.pat a =
      Memory.read Config.unlistedCv (s.cvEngine i).pat a := by
  cases h with
  | wrval slot o v hop => exact Memory.read_write_other _ v (ha slot o v hop)
  | tick _ _ _ _ => rw [dispatchCv_pat]
  | _ => rfl

end

/-- Settles O49, from what an operation can make of each engine. -/
theorem cvOperationsFrame : Obligations.CvOperationsFrame := by
  intro op i s t h hop
  have hop : WritesCv op i := hop
  have hi := exec_cvEffect h i
  refine ⟨prevClk_kept h fun x => (hop.not_evaluates x).1,
    prevRst_kept h fun x => (hop.not_evaluates x).2, (exec_edgeMemory h).1, (exec_mark h).1,
    fun j => hop.other_cvEngine (exec_cvEffect h j), fun k => hop.gtTrack (exec_gtEffect h k),
    fun hne => ?_, ?_, ?_, fun a ha => hi.read_other ha⟩
  · by_contra hcfg
    obtain ⟨w, hw⟩ := hi.cfg_written hcfg
    exact hne w hw
  · rintro ⟨w, rfl⟩
    exact hi.rt_of_cvCfg
  · rintro ⟨slot, o, v, rfl⟩
    exact hi.rt_of_cvWrval

end Sys2Proof.Machine
end

section
/-!
SUPPORT. The orbits of the advances of a CV engine (41_cv_engine.md R138): a lap is a row of
positions played one after the other, a section is a lap played a number of times, and two sections
in turn make the loop of a sectioned engine.
-/

namespace Sys2Proof.Machine

open Sys2Proof.Claims

/-! ### Laps and sections of any rule -/

/-- `f` plays `n` positions in a row, at least `r` times: `pos j q` is position `j` of lap `q`. -/
structure PlaysLaps {α : Type} (f : α → α) (n r : Nat) (pos : Nat → Nat → α) : Prop where
  within : ∀ j q, j + 1 < n → f (pos j q) = pos (j + 1) q
  again : ∀ q, q + 1 < r → f (pos (n - 1) q) = pos 0 (q + 1)

/-- `f` plays `n` positions in a row exactly `r` times and goes on to `next`. -/
structure PlaysSection {α : Type} (f : α → α) (n r : Nat) (pos : Nat → Nat → α) (next : α) : Prop
    extends PlaysLaps f n r pos where
  positions_pos : 0 < n
  laps_pos : 0 < r
  leave : f (pos (n - 1) (r - 1)) = next

section

variable {α : Type} {f : α → α} {n r n₁ n₂ r₁ r₂ k : Nat} {pos pos₁ pos₂ : Nat → Nat → α} {next : α}

theorem PlaysLaps.iterate_within (h : PlaysLaps f n r pos) {j : Nat} (q : Nat) (hj : j < n) :
    f^[j] (pos 0 q) = pos j q := by
  induction j with
  | zero => rfl
  | succ j ih => rw [Function.iterate_succ_apply', ih (by omega), h.within j q hj]

theorem PlaysLaps.iterate_laps (h : PlaysLaps f n r pos) (hn : 0 < n) {q : Nat} (hq : q < r) :
    f^[n * q] (pos 0 0) = pos 0 q := by
  induction q with
  | zero => rfl
  | succ q ih =>
    have hlap : n * (q + 1) = (n - 1) + 1 + n * q := by rw [Nat.mul_succ]; omega
    rw [hlap, Function.iterate_add_apply, ih (by omega), Function.iterate_succ_apply',
      h.iterate_within q (by omega), h.again q hq]

/-- `k` applications stand on position `k mod n` of lap `k div n`. -/
theorem PlaysLaps.iterate (h : PlaysLaps f n r pos) (hk : k < r * n) :
    f^[k] (pos 0 0) = pos (k % n) (k / n) := by
  have hn : 0 < n := Nat.pos_of_mul_pos_left (by omega : 0 < r * n)
  have hq : k / n < r := (Nat.div_lt_iff_lt_mul hn).mpr hk
  conv_lhs => rw [← Nat.mod_add_div k n]
  rw [Function.iterate_add_apply, h.iterate_laps hn hq, h.iterate_within _ (Nat.mod_lt k hn)]

/-- A rule that starts lap after lap stands on position `k mod n` after any `k` applications. -/
theorem PlaysLaps.iterate_forever (h : ∀ r, PlaysLaps f n r pos) (hn : 0 < n) (k : Nat) :
    f^[k] (pos 0 0) = pos (k % n) (k / n) :=
  (h (k + 1)).iterate ((Nat.lt_succ_self k).trans_le (Nat.le_mul_of_pos_right _ hn))

theorem PlaysSection.iterate_all (h : PlaysSection f n r pos next) :
    f^[r * n] (pos 0 0) = next := by
  have hn := h.positions_pos
  have hr := h.laps_pos
  have hlast : r * n = (n - 1) + 1 + n * (r - 1) := by
    obtain ⟨m, rfl⟩ := Nat.exists_eq_add_one.mpr hr
    rw [Nat.add_sub_cancel, Nat.mul_comm, Nat.mul_succ]
    omega
  rw [hlast, Function.iterate_add_apply, h.iterate_laps hn (by omega),
    Function.iterate_succ_apply', h.iterate_within _ (by omega), h.leave]

/-- Two sections that lead to each other: the orbit, and the return to its start. -/
theorem PlaysSection.iterate_loop (h₁ : PlaysSection f n₁ r₁ pos₁ (pos₂ 0 0))
    (h₂ : PlaysSection f n₂ r₂ pos₂ (pos₁ 0 0)) :
    (k < r₁ * n₁ + r₂ * n₂ → f^[k] (pos₁ 0 0) =
      if k < r₁ * n₁ then pos₁ (k % n₁) (k / n₁)
      else pos₂ ((k - r₁ * n₁) % n₂) ((k - r₁ * n₁) / n₂)) ∧
    f^[r₁ * n₁ + r₂ * n₂] (pos₁ 0 0) = pos₁ 0 0 := by
  constructor
  · intro hk
    split
    · next hfirst => exact h₁.iterate hfirst
    · next hsecond =>
      conv_lhs => rw [← Nat.sub_add_cancel (not_lt.mp hsecond)]
      rw [Function.iterate_add_apply, h₁.iterate_all, h₂.iterate (by omega)]
  · rw [Nat.add_comm, Function.iterate_add_apply, h₁.iterate_all, h₂.iterate_all]

end

/-! ### Advances of a CV engine -/

theorem execTimes_succ {op : Instr} {k : Nat} {s t : State} (h : exec op s = .next t) :
    execTimes op (k + 1) s = execTimes op k t := by
  rw [execTimes, h]

/-- Advances keep the configuration, so they iterate the rule `f` it selects. -/
theorem execTimes_cvAdv {i : Fin 3} {s : State} {f : Runtime → Runtime} (k : Nat)
    (hf : ∀ r, advanceCv Config.backwardSections (s.cvEngine i).cfg r = f r) :
    ∃ t, execTimes (.cvAdv i) k s = .next t ∧ (t.cvEngine i).rt = f^[k] (s.cvEngine i).rt := by
  induction k generalizing s with
  | zero => exact ⟨s, rfl, rfl⟩
  | succ k ih =>
    have hnext := exec_cvAdv s i
    rw [hf] at hnext
    obtain ⟨t, ht, hrt⟩ := ih (s := afterCv s i (f (s.cvEngine i).rt))
      (by rwa [afterCv_cvEngine])
    rw [afterCv_cvEngine] at hrt
    exact ⟨t, (execTimes_succ hnext).trans ht, hrt⟩

/-! ### Without sections -/

section

variable {c : SeqCfg} (r : Runtime) (m : Nat)

theorem fwdNosec_playsLaps (hc : c.Legal) : PlaysLaps (fwdNosec c) c.length.toNat m
    fun j _ => { r with step := at5 j } := by
  have hL := hc.length_pos
  have hL32 := hc.length_le
  refine ⟨fun j q hj => ?_, fun q _ => ?_⟩
  · rw [fwdNosec_eq, at5_toNat (by omega), if_neg (by omega)]
  · rw [fwdNosec_eq, at5_toNat (by omega), if_pos (by omega)]
    rfl

theorem bwdNosec_playsLaps (hc : c.Legal) : PlaysLaps (bwdNosec c) c.length.toNat m
    fun j _ => { r with step := at5 (c.length.toNat - 1 - j) } := by
  have hL := hc.length_pos
  have hL32 := hc.length_le
  refine ⟨fun j q hj => ?_, fun q _ => ?_⟩
  · rw [bwdNosec_eq _ _ hc, at5_toNat (by omega), if_neg (by omega), Nat.sub_sub _ j]
  · rw [bwdNosec_eq _ _ hc, at5_toNat (by omega), if_pos (by omega), Nat.sub_zero]

/-- Position `j` of a pingpong lap over `n` steps: up through every step and down again. -/
def pingpongAt (r : Runtime) (n j : Nat) : Runtime :=
  { r with step := at5 (if j < n then j else 2 * n - 1 - j), pf := decide (j < n) }

theorem pingpongAt_up {n j : Nat} (h : j < n) :
    pingpongAt r n j = { r with step := at5 j, pf := true } := by
  rw [pingpongAt, if_pos h, decide_eq_true h]

theorem pingpongAt_down {n j : Nat} (h : n ≤ j) :
    pingpongAt r n j = { r with step := at5 (2 * n - 1 - j), pf := false } := by
  rw [pingpongAt, if_neg h.not_gt, decide_eq_false h.not_gt]

theorem ppCv_playsLaps (hc : c.Legal) : PlaysLaps (ppCv c) (2 * c.length.toNat) m
    fun j _ => pingpongAt r c.length.toNat j := by
  have hL := hc.length_pos
  have hL32 := hc.length_le
  refine ⟨fun j q hj => ?_, fun q _ => ?_⟩
  · obtain hup | hturn | hdown :
        j + 1 < c.length.toNat ∨ j + 1 = c.length.toNat ∨ c.length.toNat ≤ j := by omega
    · rw [pingpongAt_up r hup, pingpongAt_up r (by omega), ppCv_eq _ _ hc, if_pos rfl,
        at5_toNat (by omega), if_neg (by omega)]
    · have hlast : 2 * c.length.toNat - 1 - (j + 1) = c.length.toNat - 1 := by omega
      rw [pingpongAt_up r (by omega), pingpongAt_down r hturn.ge, ppCv_eq _ _ hc, if_pos rfl,
        at5_toNat (by omega), if_pos hturn.ge, hlast]
    · rw [pingpongAt_down r hdown, pingpongAt_down r (by omega), ppCv_eq _ _ hc,
        if_neg Bool.false_ne_true, at5_toNat (by omega), if_neg (by omega), Nat.sub_sub _ j]
  · rw [pingpongAt_down r (by omega), pingpongAt_up r hL, ppCv_eq _ _ hc,
      if_neg Bool.false_ne_true, Nat.sub_self]
    rfl

end

section

variable {c : SeqCfg} {r : Runtime}

theorem with_step_eq {n : Nat} (h : r.step.toNat = n) : { r with step := at5 n } = r := by
  rw [← h, at5, BitVec.ofNat_toNat, BitVec.setWidth_eq]

theorem fwdNosec_iterate (hc : c.Legal) (h0 : r.step.toNat = 0) (k : Nat) :
    ((fwdNosec c)^[k] r).step.toNat = k % c.length.toNat := by
  have horbit := PlaysLaps.iterate_forever (fun m => fwdNosec_playsLaps r m hc) hc.length_pos k
  have hmod := Nat.mod_lt k hc.length_pos
  rw [with_step_eq h0] at horbit
  rw [horbit]
  exact at5_toNat (hmod.trans_le hc.length_le)

theorem bwdNosec_iterate (hc : c.Legal) (hlast : r.step.toNat = c.length.toNat - 1) (k : Nat) :
    ((bwdNosec c)^[k] r).step.toNat = c.length.toNat - 1 - k % c.length.toNat := by
  have horbit := PlaysLaps.iterate_forever (fun m => bwdNosec_playsLaps r m hc) hc.length_pos k
  rw [Nat.sub_zero, with_step_eq hlast] at horbit
  have hL := hc.length_pos
  have hL32 := hc.length_le
  rw [horbit]
  exact at5_toNat (by omega)

theorem ppCv_iterate (hc : c.Legal) (h0 : r.step.toNat = 0) (hpf : r.pf = true) (k : Nat) :
    (ppCv c)^[k] r = pingpongAt r c.length.toNat (k % (2 * c.length.toNat)) := by
  have horbit := PlaysLaps.iterate_forever (fun m => ppCv_playsLaps r m hc)
    (Nat.mul_pos two_pos hc.length_pos) k
  rw [pingpongAt_up _ hc.length_pos, ← hpf, with_step_eq h0] at horbit
  exact horbit

end

/-- Settles O52, from the iterates of the two rules. -/
theorem advancesCloseTheRing : Obligations.AdvancesCloseTheRing := by
  refine fun s i k hc hs => ⟨fun hd h0 => ?_, fun hd hlast => ?_⟩
  · obtain ⟨t, ht, hrt⟩ := execTimes_cvAdv k fun r => advanceCv_forward r hd hs
    exact ⟨t, ht, by rw [hrt, fwdNosec_iterate hc h0]⟩
  · obtain ⟨t, ht, hrt⟩ := execTimes_cvAdv k fun r => advanceCv_backward r hd hs
    exact ⟨t, ht, by rw [hrt, bwdNosec_iterate hc hlast]⟩

/-- Settles O53, from the iterates of the pingpong. -/
theorem cvPingpongReturnsAfterTwoLengths : Obligations.CvPingpongReturnsAfterTwoLengths := by
  intro s i k e hc hd h0 hpf m
  have hL := hc.length_pos
  have hL32 := hc.length_le
  obtain ⟨t, ht, hrt⟩ := execTimes_cvAdv k fun r => advanceCv_pingpong r hd
  have hm : m < 2 * e.cfg.length.toNat := Nat.mod_lt k (by omega)
  rw [ppCv_iterate hc h0 hpf] at hrt
  refine ⟨t, ht, ?_, ?_⟩
  · rw [hrt]
    exact at5_toNat (by split <;> omega)
  · rw [hrt]
    rfl

/-! ### With sections -/

/-- A section of `n` steps as `sectionRule` sees it: the step at position `j` is `p j`. -/
structure RunsOver (last : Nat → Prop) (top : Slot) (move : Nat → Nat) (n : Nat) (p : Nat → Nat) :
    Prop where
  top_eq : top = at5 (p 0)
  lt : ∀ j < n, p j < 32
  within : ∀ j, j + 1 < n → ¬ last (p j) ∧ move (p j) = p (j + 1)
  end_last : last (p (n - 1))

/-- The registers at position `j` of lap `q` of the first section. -/
def firstAt (p : Nat → Nat) (j q : Nat) : Runtime :=
  ⟨at5 (p j), true, BitVec.ofNat 32 q, 0, false⟩

/-- The registers at position `j` of lap `q` of the second section. -/
def secondAt (p : Nat → Nat) (j q : Nat) : Runtime :=
  ⟨at5 (p j), true, 0, BitVec.ofNat 32 q, true⟩

theorem plusOne_ofNat {q : Nat} (h : q < 99) : plusOne (BitVec.ofNat 32 q) = q + 1 := by
  rw [plusOne, BitVec.toNat_ofNat]
  omega

/-- The counter reaches the repeat count on the last lap and not before it. -/
theorem plusOne_lastLap {m : Nat} (h1 : 1 ≤ m) (h99 : m ≤ 99) :
    plusOne (BitVec.ofNat 32 (m - 1)) = m := by
  rw [plusOne_ofNat (by omega), Nat.sub_add_cancel h1]

theorem plusOne_ne_of_lt {q m : Nat} (h : q + 1 < m) (h99 : m ≤ 99) :
    plusOne (BitVec.ofNat 32 q) ≠ m := by
  rw [plusOne_ofNat (by omega)]
  exact h.ne

section

variable {last₁ last₂ : Nat → Prop} [DecidablePred last₁] [DecidablePred last₂] {top₁ top₂ : Slot}
  {move : Nat → Nat} {c : SeqCfg} {n₁ n₂ : Nat} {p₁ p₂ : Nat → Nat}

theorem sectionRule_playsFirst (hc : c.Legal) (hn : 0 < n₁) (h₁ : RunsOver last₁ top₁ move n₁ p₁)
    (h₂ : RunsOver last₂ top₂ move n₂ p₂) :
    PlaysSection (sectionRule last₁ last₂ top₁ top₂ move c) n₁ c.sec1Reps.toNat (firstAt p₁)
      (secondAt p₂ 0 0) := by
  obtain ⟨-, -, hr, hr99, -⟩ := hc
  have hend : (at5 (p₁ (n₁ - 1))).toNat = p₁ (n₁ - 1) := at5_toNat (h₁.lt _ (by omega))
  refine ⟨⟨fun j q hj => ?_, fun q hq => ?_⟩, hn, hr, ?_⟩
  · obtain ⟨hin, hmove⟩ := h₁.within j hj
    simp [sectionRule, firstAt, at5_toNat (h₁.lt j (by omega)), hin, hmove]
  · simp [sectionRule, firstAt, hend, h₁.end_last, plusOne_ne_of_lt hq hr99, h₁.top_eq,
      BitVec.ofNat_add]
  · simp [sectionRule, firstAt, secondAt, hend, h₁.end_last, plusOne_lastLap hr hr99, h₂.top_eq]

theorem sectionRule_playsSecond (hc : c.Legal) (hn : 0 < n₂) (h₁ : RunsOver last₁ top₁ move n₁ p₁)
    (h₂ : RunsOver last₂ top₂ move n₂ p₂) :
    PlaysSection (sectionRule last₁ last₂ top₁ top₂ move c) n₂ c.sec2Reps.toNat (secondAt p₂)
      (firstAt p₁ 0 0) := by
  obtain ⟨-, -, -, -, hr, hr99⟩ := hc
  have hend : (at5 (p₂ (n₂ - 1))).toNat = p₂ (n₂ - 1) := at5_toNat (h₂.lt _ (by omega))
  refine ⟨⟨fun j q hj => ?_, fun q hq => ?_⟩, hn, hr, ?_⟩
  · obtain ⟨hin, hmove⟩ := h₂.within j hj
    simp [sectionRule, secondAt, at5_toNat (h₂.lt j (by omega)), hin, hmove]
  · simp [sectionRule, secondAt, hend, h₂.end_last, plusOne_ne_of_lt hq hr99, h₂.top_eq,
      BitVec.ofNat_add]
  · simp [sectionRule, firstAt, secondAt, hend, h₂.end_last, plusOne_lastLap hr hr99, h₁.top_eq]

/-- Advances by a sectioned rule from the top of the first section: the orbit and the return. -/
theorem execTimes_sectioned {s : State} {i : Fin 3} (hc : (s.cvEngine i).cfg.Legal) (hn₁ : 0 < n₁)
    (hn₂ : 0 < n₂) (h₁ : RunsOver last₁ top₁ move n₁ p₁) (h₂ : RunsOver last₂ top₂ move n₂ p₂)
    (hrule : ∀ r, advanceCv Config.backwardSections (s.cvEngine i).cfg r =
      sectionRule last₁ last₂ top₁ top₂ move (s.cvEngine i).cfg r)
    (hrt : (s.cvEngine i).rt = firstAt p₁ 0 0) (k : Nat) :
    let A := (s.cvEngine i).cfg.sec1Reps.toNat * n₁
    let N := A + (s.cvEngine i).cfg.sec2Reps.toNat * n₂
    (k < N → ∃ t, execTimes (.cvAdv i) k s = .next t ∧ (t.cvEngine i).rt =
      if k < A then firstAt p₁ (k % n₁) (k / n₁)
      else secondAt p₂ ((k - A) % n₂) ((k - A) / n₂)) ∧
    ∃ t, execTimes (.cvAdv i) N s = .next t ∧ (t.cvEngine i).rt = firstAt p₁ 0 0 := by
  intro A N
  obtain ⟨horbit, hreturn⟩ := (sectionRule_playsFirst hc hn₁ h₁ h₂).iterate_loop (k := k)
    (sectionRule_playsSecond hc hn₂ h₁ h₂)
  rw [← hrt] at horbit hreturn
  obtain ⟨t, ht, htrt⟩ := execTimes_cvAdv k hrule
  obtain ⟨u, hu, hurt⟩ := execTimes_cvAdv N hrule
  exact ⟨fun hk => ⟨t, ht, htrt.trans (horbit hk)⟩, u, hu, (hurt.trans hreturn).trans hrt⟩

end

/-- Settles O55: upward, section 1 runs over `[0, S)` and section 2 over `[S, L)`. -/
theorem forwardSectionsLoopInExactlyTheirRepeats :
    Obligations.ForwardSectionsLoopInExactlyTheirRepeats := by
  intro s i k e hc hd hs hrt L S A N
  have hS : 0 < S := hs.1
  have hSL : S < L := hs.2
  have hL32 : L ≤ 32 := hc.length_le
  have hstart : startOf e.cfg = firstAt (fun j => j) 0 0 := by simp [startOf, hd, firstAt]
  have hfirst : RunsOver (S ≤ · + 1) 0 (· + 1) S fun j => j :=
    ⟨rfl, fun j _ => by omega, fun j _ => by omega, by omega⟩
  have hsecond : RunsOver (L ≤ · + 1) e.cfg.splitPoint (· + 1) (L - S) fun j => S + j :=
    ⟨by simp [S], fun j _ => by omega, fun j _ => by omega, by omega⟩
  rw [hstart]
  exact execTimes_sectioned hc hS (Nat.sub_pos_of_lt hSL) hfirst hsecond
    (fun r => (advanceCv_forward_sectioned r hd hs).trans (fwdSec_eq r)) (hrt.trans hstart) k

/-- Settles O56: downward, the S1-state runs over `[S, L)` and the S2-state over `[0, S)`. -/
theorem backwardSectionsLoopInExactlyTheirRepeats :
    Obligations.BackwardSectionsLoopInExactlyTheirRepeats := by
  intro s i k e hc hd hs hrt L S A N
  have hS : 0 < S := hs.1
  have hSL : S < L := hs.2
  have hL32 : L ≤ 32 := hc.length_le
  have hstart : startOf e.cfg = firstAt (fun j => L - 1 - j) 0 0 := by
    simp [startOf, hd, firstAt, L]
  have hfirst : RunsOver (· ≤ S) (at5 (L - 1)) (· - 1) (L - S) fun j => L - 1 - j :=
    ⟨rfl, fun j _ => by omega, fun j _ => by omega, by omega⟩
  have hsecond : RunsOver (· = 0) (at5 (S - 1)) (· - 1) S fun j => S - 1 - j :=
    ⟨rfl, fun j _ => by omega, fun j _ => by omega, by omega⟩
  rw [hstart]
  exact execTimes_sectioned hc (Nat.sub_pos_of_lt hSL) hS hfirst hsecond
    (fun r => advanceCv_backward_codeMirror r hd hs) (hrt.trans hstart) k

end Sys2Proof.Machine
end

section
/-!
SUPPORT. The gate tracks (42_gate_engine.md): the two rules that differ from a CV engine's, pingpong
(R161) and fill (R162, R163), over natural numbers; the stopped track (R165) and the decay (R168);
and what an operation on one track leaves unchanged (R169 to R172, R176).
-/

namespace Sys2Proof.Machine

open Sys2Proof.Claims

/-! ### The two rules of a gate track -/

section

variable {b : BackwardSections} {c : SeqCfg} {g : GateCfg} (r : Runtime)

theorem ppGate_eq (hc : c.Legal) : ppGate c r =
    if r.pf then
      if c.length.toNat ≤ r.step.toNat + 1 then
        { r with step := at5 (c.length.toNat - 2), pf := false }
      else { r with step := at5 (r.step.toNat + 1) }
    else
      if r.step.toNat = 0 then
        { r with step := at5 (min 1 (c.length.toNat - 1)), pf := true }
      else { r with step := at5 (r.step.toNat - 1) } := by
  have hL := hc.length_pos
  have htop : r.pos + 1 ≥ c.L ↔ c.length.toNat ≤ r.step.toNat + 1 := by
    simp only [Runtime.pos, SeqCfg.L]; omega
  have hbottom : r.pos - 1 < 0 ↔ r.step.toNat = 0 := by
    simp only [Runtime.pos]; omega
  have hdown : max 0 (c.L - 2) = ((c.length.toNat - 2 : Nat) : Int) := by
    simp only [SeqCfg.L]; omega
  have hup : min 1 (c.L - 1) = ((min 1 (c.length.toNat - 1) : Nat) : Int) := by
    simp only [SeqCfg.L]; omega
  simp only [ppGate, htop, hbottom, hdown, hup, slotOf_natCast, slotOf_succ]
  split
  · rfl
  · split
    · rfl
    · rw [slotOf_pred (Nat.one_le_iff_ne_zero.mpr ‹_›)]

/-- The model's comparator on the incremented step is the statements' one (R162). -/
theorem fillCond_iff : fillCond g r (r.pos + 1) = true ↔ FillFires g r := by
  have hlast : (r.c1.toNat : Int) = g.seq.r1 - 1 ↔ r.c1.toNat + 1 = g.seq.sec1Reps.toNat := by
    simp only [SeqCfg.r1]; omega
  have hreached : g.F ≤ r.pos + 1 ↔ g.fillStart.toNat ≤ r.step.toNat + 1 := by
    simp only [GateCfg.F, Runtime.pos]; omega
  simp only [fillCond, FillFires, Bool.and_eq_true, Bool.not_eq_true', decide_eq_true_eq,
    sectionsEnabled_iff, hlast, hreached]
  simp [and_assoc]

theorem fwdSecGate_of_fires (h : FillFires g r) :
    fwdSecGate g r = { r with c1 := 0, s2 := true, step := g.seq.splitPoint } := by
  rw [fwdSecGate, if_pos ((fillCond_iff r).mpr h), slotOf_splitPoint]

theorem fwdSecGate_of_not_fires (h : ¬ FillFires g r) : fwdSecGate g r = fwdSec g.seq r := by
  rw [fwdSecGate, if_neg (mt (fillCond_iff r).mp h)]

theorem advanceGate_pingpong (hd : g.seq.direction = .pingpong) :
    advanceGate b g r = ppGate g.seq r := by
  simp [advanceGate, hd]

theorem advanceGate_forward_sectioned (hd : g.seq.direction = .forward) (hs : Sectioned g.seq) :
    advanceGate b g r = fwdSecGate g r := by
  simp [advanceGate, hd, sectionsEnabled_iff, hs]

end

/-- Settles O27, from `ppGate_eq`. -/
theorem gatePingpongSkipsAtTheTurn : Obligations.GatePingpongSkipsAtTheTurn := by
  intro s k g hc hrun hd
  rw [exec_gtAdv s hrun, advanceGate_pingpong _ hd, ppGate_eq _ hc.1]

/-- Settles O29, by whether the fill fires. -/
theorem fillJumpsToTheSplitPoint : Obligations.FillJumpsToTheSplitPoint := by
  refine fun s k hrun hd hs => ⟨fun hfires => ?_, fun hnot => ?_⟩
  · rw [exec_gtAdv s hrun, advanceGate_forward_sectioned _ hd hs, fwdSecGate_of_fires _ hfires]
  · rw [exec_gtAdv s hrun, advanceGate_forward_sectioned _ hd hs, fwdSecGate_of_not_fires _ hnot,
      fwdSec_eq]
    rfl

/-! ### The running flag -/

theorem setGt_gtTrack_eq (s : State) (k : Fin 6) : s.setGt k (s.gtTrack k) = s := by
  have hset : s.gt.set k (s.gt[k]) = s.gt := Vector.set_getElem_self k.isLt
  simp only [State.setGt, State.gtTrack, hset]

theorem updGt_of_fixed {s : State} {k : Fin 6} {f : GateTrack → GateTrack}
    (h : f (s.gtTrack k) = s.gtTrack k) : s.updGt k f = s := by
  rw [State.updGt, h, setGt_gtTrack_eq]

section

variable {g : GateTrack} {s : State} {k : Fin 6}

theorem gateAdvance_of_stopped (b : BackwardSections) (p : U32) (h : g.cfg.running = false) :
    gateAdvance b p g = g := by
  simp [gateAdvance, h]

theorem gateReset_of_stopped (h : g.cfg.running = false) : gateReset g = g := by
  simp [gateReset, h]

theorem dispatchGt_of_stopped (o : CoincidentOrder) (b : BackwardSections) (p : U32) (ce re : Bool)
    (h : g.cfg.running = false) : dispatchGt o b p ce re g = g :=
  dispatchGt_keeps (P := (· = g)) (fun _ e => e ▸ gateReset_of_stopped (e ▸ h))
    (fun b _ e => e ▸ gateAdvance_of_stopped b p (e ▸ h)) o b ce re rfl

theorem exec_gtAdv_of_stopped (h : (s.gtTrack k).cfg.running = false) :
    exec (.gtAdv k) s = .next (s.setResult none) := by
  simp only [exec, execGtAdv, done_eq, updGt_of_fixed (gateAdvance_of_stopped _ _ h)]

theorem exec_gtRst_of_stopped (h : (s.gtTrack k).cfg.running = false) :
    exec (.gtRst k) s = .next (s.setResult none) := by
  simp only [exec, execGtRst, done_eq, updGt_of_fixed (gateReset_of_stopped h)]

end

/-- The decay is truncated subtraction (R168). -/
theorem gateDecay_eq (n : U32) (g : GateTrack) :
    gateDecay n g = { g with tc := BitVec.ofNat 32 (g.tc.toNat - n.toNat) } := by
  have htc : (gateDecay n g).tc = BitVec.ofNat 32 (g.tc.toNat - n.toNat) := by
    rw [← gateDecay_tc_toNat, BitVec.ofNat_toNat, BitVec.setWidth_eq]
  rw [← htc]
  rfl

theorem exec_gtDecay (s : State) (k : Fin 6) (n : U32) : exec (.gtDecay k n) s =
    .next ((s.setGt k (gateDecay n (s.gtTrack k))).setResult none) := rfl

/-- Settles O34: every rule of a stopped track but the decay and the clamp is the identity. -/
theorem stoppedTrackIgnoresAdvanceAndReset : Obligations.StoppedTrackIgnoresAdvanceAndReset := by
  intro s k hstop
  refine ⟨exec_gtAdv_of_stopped hstop, exec_gtRst_of_stopped hstop, fun clk rst n => ?_,
    fun n => ⟨_, exec_gtDecay s k n, setGt_gtTrack_self ..⟩, fun w hw => ?_⟩
  · obtain ⟨t, ht, -, hgt⟩ := exec_tick_delivered clk rst n s
    exact ⟨t, ht, (hgt k).trans (dispatchGt_of_stopped _ _ _ _ _ hstop)⟩
  · obtain ⟨hvalid, -⟩ := configurationWriteClampsOrRefuses s w
    obtain ⟨t, ht, -, hclamped, -⟩ := (hvalid hw).2 k
    exact ⟨t, ht, hclamped⟩

/-- Settles O35, by whether the track runs. -/
theorem gateAdvanceSetsTheTrigger : Obligations.GateAdvanceSetsTheTrigger :=
  fun s _ => ⟨exec_gtAdv s, exec_gtAdv_of_stopped⟩

/-- Settles O36, from `gateDecay_eq`. -/
theorem decayCountsDownToZero : Obligations.DecayCountsDownToZero := by
  intro s k n
  rw [exec_gtDecay, gateDecay_eq]

/-! ### The frame of the gate operations -/

/-- The operations of one gate track that write its state. -/
def WritesGt (op : Instr) (k : Fin 6) : Prop :=
  op = .gtAdv k ∨ op = .gtRst k ∨ (∃ n, op = .gtDecay k n) ∨ (∃ w, op = .gtCfg k w) ∨
    ∃ slot v, op = .gtWrstate k slot v

section

variable {op : Instr} {s : State} {i : Fin 3} {j k : Fin 6} {e : CvEngine} {g : GateTrack}

theorem WritesGt.other_gtTrack (hop : WritesGt op k) (h : GtEffect op s j g) (hne : j ≠ k) :
    g = s.gtTrack j := by
  cases h with
  | none => rfl
  | adv h | rst h | decay _ h | cfg _ _ h _ | wrstate _ _ _ h _ | tick _ _ _ h =>
    subst h
    simp [WritesGt, hne] at hop

theorem WritesGt.cvEngine (hop : WritesGt op k) (h : CvEffect op s i e) : e = s.cvEngine i := by
  cases h with
  | none => rfl
  | adv h | rst h | cfg _ _ h _ | wrval _ _ _ h | tick _ _ _ h =>
    subst h
    simp [WritesGt] at hop

theorem WritesGt.not_tick (hop : WritesGt op k) (clk rst : Sample) (n : U32) :
    op ≠ .tick clk rst n := by
  rintro rfl
  simp [WritesGt] at hop

theorem WritesGt.not_evaluates (hop : WritesGt op k) (x : Sample) :
    ¬ EvaluatesClk op x ∧ ¬ EvaluatesRst op x := by
  obtain rfl | rfl | ⟨n, rfl⟩ | ⟨w, rfl⟩ | ⟨slot, v, rfl⟩ := hop <;>
    simp [EvaluatesClk, EvaluatesRst]

theorem GtEffect.rt_of_gtCfg {w : CfgWord} (h : GtEffect (.gtCfg k w) s k g) :
    g.rt = { (s.gtTrack k).rt with step := g.rt.step } := by
  cases h with
  | none => rfl
  | cfg w' c _ _ => exact clamp_eq ..
  | _ => contradiction

theorem GtEffect.rt_of_gtDecay {n : U32} (h : GtEffect (.gtDecay k n) s k g) :
    g.rt = (s.gtTrack k).rt := by
  cases h with
  | none => rfl
  | decay _ _ => rfl
  | _ => contradiction

theorem GtEffect.rt_of_gtWrstate {slot : Slot} {v : Code}
    (h : GtEffect (.gtWrstate k slot v) s k g) : g.rt = (s.gtTrack k).rt := by
  cases h with
  | none => rfl
  | wrstate _ _ _ _ _ => rfl
  | _ => contradiction

/-- Every slot reads as before except the one `gt.wrstate` stores to (R56, R176). -/
theorem GtEffect.read_other (h : GtEffect op s k g) {a : Nat}
    (ha : ∀ slot v, op = .gtWrstate k slot v → a ≠ gtAddr slot) :
    Memory.read Config.unlistedGate g.pat a =
      Memory.read Config.unlistedGate (s.gtTrack k).pat a := by
  cases h with
  | wrstate slot v x hop _ => exact Memory.read_write_other _ x (ha slot v hop)
  | adv _ => rw [gateAdvance_pat]
  | rst _ => rw [gateReset_pat]
  | tick _ _ _ _ => rw [dispatchGt_pat, gateDecay_pat]
  | _ => rfl

end

/-- Settles O50, from what an operation can make of each engine. -/
theorem gateOperationsFrame : Obligations.GateOperationsFrame := by
  intro op k s t h hop
  have hop : WritesGt op k := hop
  have hk := exec_gtEffect h k
  refine ⟨prevClk_kept h fun x => (hop.not_evaluates x).1,
    prevRst_kept h fun x => (hop.not_evaluates x).2, (exec_edgeMemory h).1, (exec_mark h).1,
    fun j => hop.other_gtTrack (exec_gtEffect h j), fun i => hop.cvEngine (exec_cvEffect h i),
    fun hne => ?_, ?_, fun hadv hdecay => ?_, ?_, fun a ha => hk.read_other ha⟩
  · by_contra hcfg
    obtain ⟨w, hw⟩ := hk.cfg_written hcfg
    exact hne w hw
  · rintro ⟨w, rfl⟩
    exact hk.rt_of_gtCfg
  · by_contra htc
    obtain rfl | ⟨n, hn⟩ := hk.tc_written hop.not_tick htc
    · exact hadv rfl
    · exact hdecay n hn
  · rintro (⟨n, rfl⟩ | ⟨slot, v, rfl⟩)
    · exact hk.rt_of_gtDecay
    · exact hk.rt_of_gtWrstate

end Sys2Proof.Machine
end

section
/-!
SUPPORT. The orbits of the advances of a gate track and of the idle ticks (42_gate_engine.md R177,
R178): the pingpong is one lap without end, the fill makes the whole first section one lap of its
own, and ticks without an edge count the trigger down.
-/

namespace Sys2Proof.Machine

open Sys2Proof.Claims

/-! ### Operations that iterate a rule -/

/-- An operation that keeps `P` and moves the part `x` of such a state by `f`, moves it `k` times by
`f` when it is done `k` times. -/
theorem execTimes_iterate {α : Type} {op : Instr} {P : State → Prop} {x : State → α} {f : α → α}
    (hop : ∀ s, P s → ∃ t, exec op s = .next t ∧ P t ∧ x t = f (x s)) (k : Nat) {s : State}
    (hs : P s) : ∃ t, execTimes op k s = .next t ∧ x t = f^[k] (x s) := by
  induction k generalizing s with
  | zero => exact ⟨s, rfl, rfl⟩
  | succ k ih =>
    obtain ⟨t, ht, htP, htx⟩ := hop s hs
    obtain ⟨u, hu, hux⟩ := ih htP
    exact ⟨u, (execTimes_succ ht).trans hu, by rw [hux, htx, Function.iterate_succ_apply]⟩

theorem afterGt_gtTrack (s : State) (j : Fin 6) (rt : Runtime) : (afterGt s j rt).gtTrack j =
    { s.gtTrack j with
      rt := rt
      tc := if gtRead (s.gtTrack j).pat rt.step = .off then (s.gtTrack j).tc
        else Config.pulseSamples } := setGt_gtTrack_self ..

/-- Advances keep the configuration of a track, so on a running one they iterate the rule `f` it
selects. -/
theorem execTimes_gtAdv {j : Fin 6} {s : State} {f : Runtime → Runtime} (k : Nat)
    (hrun : (s.gtTrack j).cfg.running = true)
    (hf : ∀ r, advanceGate Config.backwardSections (s.gtTrack j).cfg r = f r) :
    ∃ t, execTimes (.gtAdv j) k s = .next t ∧ (t.gtTrack j).rt = f^[k] (s.gtTrack j).rt := by
  refine execTimes_iterate (P := fun u => (u.gtTrack j).cfg = (s.gtTrack j).cfg)
    (x := fun u => (u.gtTrack j).rt) (fun u hu => ?_) k rfl
  refine ⟨_, exec_gtAdv u (hu ▸ hrun), ?_, ?_⟩
  · rw [afterGt_gtTrack]
    exact hu
  · rw [afterGt_gtTrack, hu]
    exact hf _

/-! ### Pingpong -/

/-- Where advance `m` of a gate pingpong over `n` steps stands: the turn at the top skips a step. -/
def gatePingpongAt (r : Runtime) (n m : Nat) : Runtime :=
  { r with step := at5 (if m < n then m else 2 * n - 2 - m), pf := decide (m < n) }

theorem gatePingpongAt_up (r : Runtime) {n m : Nat} (h : m < n) :
    gatePingpongAt r n m = { r with step := at5 m, pf := true } := by
  rw [gatePingpongAt, if_pos h, decide_eq_true h]

theorem gatePingpongAt_down (r : Runtime) {n m : Nat} (h : n ≤ m) :
    gatePingpongAt r n m = { r with step := at5 (2 * n - 2 - m), pf := false } := by
  rw [gatePingpongAt, if_neg h.not_gt, decide_eq_false h.not_gt]

section

variable {c : SeqCfg} (r : Runtime)

/-- One advance of the pingpong goes from position `m` to the next, until the bottom is reached. -/
theorem ppGate_gatePingpongAt (hc : c.Legal) {m : Nat} (hm : m + 1 ≤ 2 * c.length.toNat - 2) :
    ppGate c (gatePingpongAt r c.length.toNat m) = gatePingpongAt r c.length.toNat (m + 1) := by
  have hL := hc.length_pos
  have hL32 := hc.length_le
  obtain hup | hturn | hdown :
      m + 1 < c.length.toNat ∨ m + 1 = c.length.toNat ∨ c.length.toNat ≤ m := by omega
  · rw [gatePingpongAt_up r hup, gatePingpongAt_up r (by omega), ppGate_eq _ hc, if_pos rfl,
      at5_toNat (by omega), if_neg (by omega)]
  · have hskip : 2 * c.length.toNat - 2 - (m + 1) = c.length.toNat - 2 := by omega
    rw [gatePingpongAt_up r (by omega), gatePingpongAt_down r hturn.ge, ppGate_eq _ hc, if_pos rfl,
      at5_toNat (by omega), if_pos hturn.ge, hskip]
  · rw [gatePingpongAt_down r hdown, gatePingpongAt_down r (by omega), ppGate_eq _ hc,
      if_neg Bool.false_ne_true, at5_toNat (by omega), if_neg (by omega), Nat.sub_sub _ m]

/-- The turn at the bottom skips a step too: it goes to step 1, where the lap began. -/
theorem ppGate_gatePingpongAt_bottom (hc : c.Legal) (hL : 2 ≤ c.length.toNat) :
    ppGate c (gatePingpongAt r c.length.toNat (2 * c.length.toNat - 2)) =
      gatePingpongAt r c.length.toNat 1 := by
  rw [gatePingpongAt_down r (by omega), gatePingpongAt_up r hL, ppGate_eq _ hc,
    if_neg Bool.false_ne_true, Nat.sub_self, if_pos (by rfl), Nat.min_eq_left (by omega)]

theorem ppGate_playsLaps (hc : c.Legal) (hL : 2 ≤ c.length.toNat) (q : Nat) :
    PlaysLaps (ppGate c) (2 * c.length.toNat - 2) q
      fun j _ => gatePingpongAt r c.length.toNat (j + 1) := by
  refine ⟨fun j q hj => ppGate_gatePingpongAt r hc (by omega), fun q _ => ?_⟩
  rw [Nat.sub_add_cancel (by omega), ppGate_gatePingpongAt_bottom r hc hL]

/-- The reset state is position 0, outside the lap, and the first advance enters the lap. -/
theorem ppGate_iterate (hc : c.Legal) (hL : 2 ≤ c.length.toNat) (h0 : r.step.toNat = 0)
    (hpf : r.pf = true) (k : Nat) : (ppGate c)^[k + 1] r =
      gatePingpongAt r c.length.toNat (k % (2 * c.length.toNat - 2) + 1) := by
  have hstart : gatePingpongAt r c.length.toNat 0 = r := by
    rw [gatePingpongAt_up _ hc.length_pos, ← hpf, with_step_eq h0]
  have henter := ppGate_gatePingpongAt r hc (m := 0) (by omega)
  rw [hstart] at henter
  rw [Function.iterate_succ_apply, henter]
  exact PlaysLaps.iterate_forever (ppGate_playsLaps r hc hL) (by omega) k

end

/-- Settles O54, from the iterates of the pingpong. -/
theorem gatePingpongHasPeriodTwoLengthsLessTwo :
    Obligations.GatePingpongHasPeriodTwoLengthsLessTwo := by
  intro s j k g hc hrun hd hL h0 hpf m
  have hL32 := hc.1.length_le
  have hm : m < 2 * g.cfg.seq.length.toNat - 2 + 1 :=
    Nat.succ_lt_succ (Nat.mod_lt k (by omega))
  obtain ⟨t, ht, hrt⟩ := execTimes_gtAdv (k + 1) hrun fun r => advanceGate_pingpong r hd
  rw [ppGate_iterate _ hc.1 hL h0 hpf] at hrt
  refine ⟨t, ht, ?_, ?_⟩
  · rw [hrt]
    exact at5_toNat (by split <;> omega)
  · rw [hrt]
    rfl

/-! ### The fill -/

/-- A section is played by every rule that agrees with one that plays it. -/
theorem PlaysSection.congr {α : Type} {f g : α → α} {n r : Nat} {pos : Nat → Nat → α} {next : α}
    (h : PlaysSection g n r pos next) (hfg : ∀ j q, f (pos j q) = g (pos j q)) :
    PlaysSection f n r pos next := by
  refine ⟨⟨fun j q hj => ?_, fun q hq => ?_⟩, h.positions_pos, h.laps_pos, ?_⟩
  · rw [hfg, h.within j q hj]
  · rw [hfg, h.again q hq]
  · rw [hfg, h.leave]

section

variable {c : SeqCfg}

theorem fwdSec_runsOver_first (hs : Sectioned c) :
    RunsOver (c.splitPoint.toNat ≤ · + 1) 0 (· + 1) c.splitPoint.toNat fun j => j := by
  have hS32 := c.splitPoint.isLt
  have hS := hs.1
  exact ⟨rfl, fun j _ => by omega, fun j _ => by omega, by omega⟩

theorem fwdSec_runsOver_second (hc : c.Legal) (hs : Sectioned c) :
    RunsOver (c.length.toNat ≤ · + 1) c.splitPoint (· + 1) (c.length.toNat - c.splitPoint.toNat)
      fun j => c.splitPoint.toNat + j := by
  obtain ⟨hS, hSL⟩ := hs
  have hL32 := hc.length_le
  exact ⟨by simp, fun j _ => by omega, fun j _ => by omega, by omega⟩

theorem fwdSec_playsFirst (hc : c.Legal) (hs : Sectioned c) :
    PlaysSection (fwdSec c) c.splitPoint.toNat c.sec1Reps.toNat (firstAt fun j => j)
      (secondAt (fun j => c.splitPoint.toNat + j) 0 0) := by
  rw [funext fwdSec_eq]
  exact sectionRule_playsFirst hc hs.1 (fwdSec_runsOver_first hs) (fwdSec_runsOver_second hc hs)

theorem fwdSec_playsSecond (hc : c.Legal) (hs : Sectioned c) :
    PlaysSection (fwdSec c) (c.length.toNat - c.splitPoint.toNat) c.sec2Reps.toNat
      (secondAt fun j => c.splitPoint.toNat + j) (firstAt (fun j => j) 0 0) := by
  rw [funext fwdSec_eq]
  exact sectionRule_playsSecond hc (Nat.sub_pos_of_lt hs.2) (fwdSec_runsOver_first hs)
    (fwdSec_runsOver_second hc hs)

end

/-- The fill of a track can fire at all (R162). -/
structure FillPossible (g : GateCfg) : Prop where
  forward : g.seq.direction = .forward
  sectioned : Sectioned g.seq
  fill_pos : 0 < g.fillStart.toNat
  fill_lt : g.fillStart.toNat < g.seq.splitPoint.toNat
  repeats : 1 < g.seq.sec1Reps.toNat

/-- The advances from the start of a loop to its fill (R178). -/
def advancesToFill (g : GateCfg) : Nat :=
  (g.seq.sec1Reps.toNat - 1) * g.seq.splitPoint.toNat + g.fillStart.toNat

section

variable {g : GateCfg}

theorem not_fillFires_secondAt (p : Nat → Nat) (j q : Nat) : ¬ FillFires g (secondAt p j q) := by
  simp [FillFires, secondAt]

/-- Within the first section the fill waits for the last repetition to reach `fillStart`. -/
theorem fillFires_firstAt (hg : FillPossible g) {j q : Nat} (hj : j < 32) (hq : q < 99) :
    FillFires g (firstAt (fun j => j) j q) ↔
      q + 1 = g.seq.sec1Reps.toNat ∧ g.fillStart.toNat ≤ j + 1 := by
  obtain ⟨hd, hs, hF, hFS, hr⟩ := hg
  have hcount : (BitVec.ofNat 32 q).toNat = q := by rw [BitVec.toNat_ofNat]; omega
  simp [FillFires, firstAt, hd, hs, hF, hFS, hr, hcount, at5_toNat hj]

theorem advancesToFill_lt (hg : FillPossible g) :
    advancesToFill g < g.seq.sec1Reps.toNat * g.seq.splitPoint.toNat := by
  calc advancesToFill g
      < (g.seq.sec1Reps.toNat - 1) * g.seq.splitPoint.toNat + g.seq.splitPoint.toNat :=
        Nat.add_lt_add_left hg.fill_lt _
    _ = (g.seq.sec1Reps.toNat - 1 + 1) * g.seq.splitPoint.toNat := (Nat.succ_mul ..).symm
    _ = g.seq.sec1Reps.toNat * g.seq.splitPoint.toNat := by rw [Nat.sub_add_cancel hg.repeats.le]

/-- In the first section the fill fires with advance `advancesToFill` and not before. -/
theorem fillFires_iff_last (hc : g.seq.Legal) (hg : FillPossible g) {k : Nat}
    (hk : k < advancesToFill g) :
    FillFires g (firstAt (fun j => j) (k % g.seq.splitPoint.toNat) (k / g.seq.splitPoint.toNat)) ↔
      k + 1 = advancesToFill g := by
  have hlt := hk.trans (advancesToFill_lt hg)
  have hS : 0 < g.seq.splitPoint.toNat := hg.sectioned.1
  have hF := hg.fill_pos
  have hFS := hg.fill_lt
  have hr := hg.repeats
  obtain ⟨-, -, -, hr99, -⟩ := hc
  have hS32 := g.seq.splitPoint.isLt
  have hmod := Nat.mod_lt k hS
  have hlap : k / g.seq.splitPoint.toNat < g.seq.sec1Reps.toNat :=
    (Nat.div_lt_iff_lt_mul hS).mpr hlt
  rw [fillFires_firstAt hg (by omega) (by omega)]
  constructor
  · rintro ⟨hlast, hreached⟩
    have hsplit := Nat.div_add_mod' k g.seq.splitPoint.toNat
    rw [Nat.eq_sub_of_add_eq hlast] at hsplit
    unfold advancesToFill at hk ⊢
    omega
  · intro hend
    have hk' : k = (g.fillStart.toNat - 1) +
        g.seq.splitPoint.toNat * (g.seq.sec1Reps.toNat - 1) := by
      unfold advancesToFill at hend
      rw [Nat.mul_comm]
      omega
    rw [hk', Nat.add_mul_div_left _ _ hS, Nat.add_mul_mod_self_left,
      Nat.div_eq_of_lt (by omega), Nat.mod_eq_of_lt (by omega)]
    omega

/-- Up to its fill a track plays the generic rule, so its shortened first section is one lap. -/
theorem fwdSecGate_playsFirst (hc : g.seq.Legal) (hg : FillPossible g) :
    PlaysSection (fwdSecGate g) (advancesToFill g) 1
      (fun k _ => firstAt (fun j => j) (k % g.seq.splitPoint.toNat) (k / g.seq.splitPoint.toNat))
      (secondAt (fun j => g.seq.splitPoint.toNat + j) 0 0) := by
  have hpos : 0 < advancesToFill g := Nat.add_pos_right _ hg.fill_pos
  refine ⟨⟨fun k q hk => ?_, fun q hq => by omega⟩, hpos, one_pos, ?_⟩
  · have horbit {m : Nat} (hm : m < advancesToFill g) :=
      (fwdSec_playsFirst hc hg.sectioned).iterate (hm.trans (advancesToFill_lt hg))
    have hnot := mt (fillFires_iff_last hc hg (Nat.lt_of_succ_lt hk)).mp hk.ne
    rw [fwdSecGate_of_not_fires _ hnot, ← horbit hk, ← horbit (Nat.lt_of_succ_lt hk),
      Function.iterate_succ_apply']
  · have hfires := (fillFires_iff_last hc hg (Nat.sub_lt hpos one_pos)).mpr
      (Nat.sub_add_cancel hpos)
    rw [fwdSecGate_of_fires _ hfires]
    simp [firstAt, secondAt]

theorem fwdSecGate_playsSecond (hc : g.seq.Legal) (hs : Sectioned g.seq) :
    PlaysSection (fwdSecGate g) (g.seq.length.toNat - g.seq.splitPoint.toNat) g.seq.sec2Reps.toNat
      (secondAt fun j => g.seq.splitPoint.toNat + j) (firstAt (fun j => j) 0 0) :=
  (fwdSec_playsSecond hc hs).congr fun j q =>
    fwdSecGate_of_not_fires _ (not_fillFires_secondAt _ j q)

end

/-- Settles O57: the shortened first section and the second one lead to each other. -/
theorem fillShortensTheForwardLoop : Obligations.FillShortensTheForwardLoop := by
  intro s j k g c hc hrun hd hs hF hFS hr hrt L S A N
  have hstart : startOf c = firstAt (fun j => j) (0 % S) (0 / S) := by
    simp [startOf, hd, firstAt]
  have hsecond := fwdSecGate_playsSecond hc.1 hs
  have hfirst := fwdSecGate_playsFirst hc.1 ⟨hd, hs, hF, hFS, hr⟩
  have hA : advancesToFill g.cfg = A := rfl
  obtain ⟨horbit, hreturn⟩ := hfirst.iterate_loop (k := k) (by simpa using hsecond)
  rw [one_mul, hA, ← hstart, ← hrt] at horbit hreturn
  have hrule := fun r => advanceGate_forward_sectioned (b := Config.backwardSections) r hd hs
  obtain ⟨t, ht, htrt⟩ := execTimes_gtAdv k hrun hrule
  obtain ⟨u, hu, hurt⟩ := execTimes_gtAdv N hrun hrule
  refine ⟨fun hk => ⟨t, ht, (htrt.trans (horbit hk)).trans ?_⟩, u, hu,
    (hurt.trans hreturn).trans hrt⟩
  by_cases hkA : k < A
  · rw [if_pos hkA, if_pos hkA, Nat.mod_eq_of_lt hkA]
    rfl
  · rw [if_neg hkA, if_neg hkA]
    rfl

/-! ### The trigger pulse -/

/-- A clock edge on a running track that lands on a slot not Off loads the pulse, whatever the reset
edge does, at the coincident order of log 10 (R166, 43_dispatcher.md R204). -/
theorem dispatchGt_tc_of_clock {b : BackwardSections} {p : U32} {re : Bool} {g g' : GateTrack}
    (hrun : g.cfg.running = true) (hg' : g' = dispatchGt .resetThenAdvance b p true re g)
    (hslot : gtRead g'.pat g'.rt.step ≠ .off) : g'.tc = p := by
  have hcfg : (if re then gateReset g else g).cfg.running = true := by
    cases re <;> simpa using hrun
  have hadv : g' = gateAdvance b p (if re then gateReset g else g) := hg'
  rw [hadv, gateAdvance_pat, gateAdvance_rt, if_pos hcfg] at hslot
  rw [hadv, gateAdvance_tc, if_pos ⟨hcfg, hslot⟩]

theorem gateDecay_iterate_tc (n : U32) (g : GateTrack) (k : Nat) :
    ((gateDecay n)^[k] g).tc.toNat = g.tc.toNat - k * n.toNat := by
  induction k with
  | zero => simp
  | succ k ih => rw [Function.iterate_succ_apply', gateDecay_tc_toNat, ih, Nat.sub_sub,
      Nat.succ_mul]

theorem rising_eq_false_of_sampleHigh {cur : Sample} (h : sampleHigh cur = false) (prev : Sample) :
    rising prev cur = false := by
  rw [rising, h, Bool.and_false]

/-- Ticks at samples that are not high only decay the trigger counters. -/
theorem execTimes_tick_low {low low' : Sample} (h : sampleHigh low = false)
    (h' : sampleHigh low' = false) (n : U32) (s : State) (j : Fin 6) (k : Nat) :
    ∃ u, execTimes (.tick low low' n) k s = .next u ∧
      u.gtTrack j = (gateDecay n)^[k] (s.gtTrack j) := by
  refine execTimes_iterate (P := fun _ => True) (x := fun u => u.gtTrack j) (fun v _ => ?_) k
    trivial
  obtain ⟨u, hu, -, hgt⟩ := exec_tick_delivered low low' n v
  rw [rising_eq_false_of_sampleHigh h, rising_eq_false_of_sampleHigh h', dispatchGt_clock] at hgt
  exact ⟨u, hu, trivial, hgt j⟩

/-- What `k` cycles of `n` samples leave of `p` is positive while `k` is below `ceil(p / n)`. -/
theorem sub_mul_pos_iff_lt_ceil {p n : Nat} (hn : 0 < n) (k : Nat) :
    0 < p - k * n ↔ k < (p + n - 1) / n := by
  rw [Nat.lt_iff_add_one_le (m := k), Nat.le_div_iff_mul_le hn, Nat.succ_mul]
  omega

/-- Settles O58, from the loaded counter and the decays of the ticks that follow. -/
theorem triggerPulseLastsItsSamples : Obligations.TriggerPulseLastsItsSamples := by
  intro clk rst low low' n s t j k hedge hrun ht hslot hlow hlow' hn
  obtain ⟨t', ht', -, hgt⟩ := exec_tick_delivered clk rst n s
  obtain rfl := Host.Outcome.next.inj (ht'.symm.trans ht)
  have hgtj := hgt j
  rw [hedge] at hgtj
  have htc := dispatchGt_tc_of_clock (g := gateDecay n (s.gtTrack j)) hrun hgtj hslot
  obtain ⟨u, hu, hgu⟩ := execTimes_tick_low hlow hlow' n t' j k
  have hcount : (u.gtTrack j).tc.toNat = Config.pulseSamples.toNat - k * n.toNat := by
    rw [hgu, gateDecay_iterate_tc, htc]
  refine ⟨htc, u, hu, hcount, ?_⟩
  rw [triggerActive, decide_eq_true_iff, hcount, sub_mul_pos_iff_lt_ceil hn]

end Sys2Proof.Machine
end

section
/-!
SUPPORT. The Dispatcher (43_dispatcher.md): what an operation makes of one engine as a function of
that engine and the edge memories (R206), the tick in every order of the engines (R200 to R203), and
coincident edges (R204).
-/

namespace Sys2Proof.Machine

open Sys2Proof.Claims

/-! ### The next state of one engine -/

/-- What `op` makes of CV engine `i`, from the edge memories `clk`, `rst` and it alone. -/
def cvNext (op : Instr) (clk rst : Sample) (i : Fin 3) (e : CvEngine) : CvEngine :=
  match op with
  | .tick c r _ => dispatchCv Config.coincidentOrder Config.backwardSections (rising clk c)
      (rising rst r) e
  | .cvCfg j w => if i = j then (validate w).elim e (cvConfigure · e) else e
  | .cvAdv j => if i = j then cvAdvance Config.backwardSections e else e
  | .cvRst j => if i = j then cvReset e else e
  | .cvWrval j slot o v => if i = j then { e with pat := cvWrite e.pat slot o v } else e
  | _ => e

/-- What `op` makes of gate track `k`, from the edge memories `clk`, `rst` and it alone. -/
def gtNext (op : Instr) (clk rst : Sample) (k : Fin 6) (g : GateTrack) : GateTrack :=
  match op with
  | .tick c r n => dispatchGt Config.coincidentOrder Config.backwardSections Config.pulseSamples
      (rising clk c) (rising rst r) (gateDecay n g)
  | .gtCfg j w => if k = j then (validate w).elim g (gateConfigure · g) else g
  | .gtAdv j => if k = j then gateAdvance Config.backwardSections Config.pulseSamples g else g
  | .gtRst j => if k = j then gateReset g else g
  | .gtDecay j n => if k = j then gateDecay n g else g
  | .gtWrstate j slot v => if k = j then
      (triStateOf v).elim g (fun x => { g with pat := gtWrite g.pat slot x }) else g
  | _ => g

section

variable {op : Instr} {s t : State}

theorem exec_cvEngine (h : exec op s = .next t) (i : Fin 3) :
    t.cvEngine i = cvNext op s.prevClk s.prevRst i (s.cvEngine i) := by
  cases op with
  | tick c r n =>
    obtain rfl := Host.Outcome.next.inj ((exec_tick c r n s).symm.trans h)
    rw [setResult_cvEngine, tickIn_cvEngine, cvNext]
  | cvCfg j w =>
    cases hw : validate w with
    | none =>
      obtain rfl := Host.Outcome.next.inj ((exec_cvCfg_refuses j s hw).symm.trans h)
      simp [cvNext, hw]
    | some c =>
      obtain rfl := Host.Outcome.next.inj ((exec_cvCfg_stores j s hw).symm.trans h)
      simp [cvNext, hw, updCv_cvEngine]
  | cvAdv j | cvRst j | cvWrval j _ _ _ =>
    obtain rfl := Host.Outcome.next.inj h
    rw [setResult_cvEngine, updCv_cvEngine, cvNext]
  | _ =>
    have he := exec_cvEffect h i
    generalize t.cvEngine i = e at he ⊢
    cases he with
    | none => rfl
    | _ => contradiction

theorem exec_gtTrack (h : exec op s = .next t) (k : Fin 6) :
    t.gtTrack k = gtNext op s.prevClk s.prevRst k (s.gtTrack k) := by
  cases op with
  | tick c r n =>
    obtain rfl := Host.Outcome.next.inj ((exec_tick c r n s).symm.trans h)
    rw [setResult_gtTrack, tickIn_gtTrack, gtNext]
  | gtCfg j w =>
    cases hw : validate w with
    | none =>
      obtain rfl := Host.Outcome.next.inj ((exec_gtCfg_refuses j s hw).symm.trans h)
      simp [gtNext, hw]
    | some c =>
      obtain rfl := Host.Outcome.next.inj ((exec_gtCfg_stores j s hw).symm.trans h)
      simp [gtNext, hw, updGt_gtTrack]
  | gtWrstate j slot v =>
    cases hv : triStateOf v with
    | none =>
      obtain rfl := Host.Outcome.next.inj ((exec_gtWrstate_refuses j slot s hv).symm.trans h)
      simp [gtNext, hv]
    | some x =>
      obtain rfl := Host.Outcome.next.inj ((exec_gtWrstate_stores j slot s hv).symm.trans h)
      simp [gtNext, hv, updGt_gtTrack]
  | gtAdv j | gtRst j | gtDecay j _ =>
    obtain rfl := Host.Outcome.next.inj h
    rw [setResult_gtTrack, updGt_gtTrack, gtNext]
  | _ =>
    have he := exec_gtEffect h k
    generalize t.gtTrack k = g at he ⊢
    cases he with
    | none => rfl
    | _ => contradiction

end

/-- Settles O44: both runs apply the same function to the same engine and edge memories. -/
theorem noEngineDependsOnAnother : Obligations.NoEngineDependsOnAnother := by
  intro op s s' t t' h h' hclk hrst
  refine ⟨fun i hi => ?_, fun k hk => ?_⟩
  · rw [exec_cvEngine h, exec_cvEngine h', hclk, hrst, hi]
  · rw [exec_gtTrack h, exec_gtTrack h', hclk, hrst, hk]

/-! ### The tick -/

/-- A tick changes nothing but the edge memory, the engines and the result bus. -/
theorem exec_tick_sameInterface {clk rst : Sample} {n : U32} {s t : State}
    (h : exec (.tick clk rst n) s = .next t) : SameInterface s t :=
  ⟨(exec_mark h).1 rfl, (exec_edgeMemory h).1⟩

/-- Settles O42: the parameters of log 10 make the dispatch the reset and then the advance. -/
theorem tickDecaysThenDeliversTheEdges : Obligations.TickDecaysThenDeliversTheEdges := by
  intro clk rst n s ce re
  have h := exec_tick clk rst n s
  refine ⟨_, h, prevClk_of_evaluatesClk h (.inr ⟨rst, n, rfl⟩),
    prevRst_of_evaluatesRst h (.inr ⟨clk, n, rfl⟩), exec_cvEngine h, fun k => ?_, rfl,
    exec_tick_sameInterface h⟩
  rw [exec_gtTrack h k, gtNext, gateDecay_eq]
  rfl

/-- The dispatch moves the trigger counter only by the pulse of an advance. -/
theorem dispatchGt_tc (o : CoincidentOrder) (b : BackwardSections) (p : U32) (ce re : Bool)
    (g : GateTrack) :
    (dispatchGt o b p ce re g).tc = g.tc ∨ (dispatchGt o b p ce re g).tc = p := by
  refine dispatchGt_keeps (P := fun g' => g'.tc = g.tc ∨ g'.tc = p) (fun g' h => ?_)
    (fun b g' h => ?_) o b ce re (.inl rfl)
  · rwa [gateReset_tc]
  · rw [gateAdvance_tc]
    split
    · exact .inr rfl
    · exact h

theorem dispatchGt_tc_of_no_clock (o : CoincidentOrder) (b : BackwardSections) (p : U32) (re : Bool)
    (g : GateTrack) : (dispatchGt o b p false re g).tc = g.tc := by
  cases re <;> simp [dispatchGt_reset]

/-- Settles O59: the dispatch gets the decayed track. -/
theorem tickDecaysBeforeTheDispatch : Obligations.TickDecaysBeforeTheDispatch := by
  intro clk rst n s
  obtain ⟨t, ht, -, hgt⟩ := exec_tick_delivered clk rst n s
  refine ⟨t, ht, fun k => ?_⟩
  have hk := hgt k
  rw [gateDecay_eq] at hk
  refine ⟨hk, ?_, ?_, rfl⟩
  · rintro (hclk | hstop)
    · rw [hk, hclk, dispatchGt_tc_of_no_clock]
    · exact congrArg GateTrack.tc (hk.trans (dispatchGt_of_stopped _ _ _ _ _ hstop))
  · rw [hk]
    exact dispatchGt_tc ..

/-- The order of the visits does not show: each engine is visited once and sees no other (R206). -/
theorem tickIn_of_perm {es : List EngineId} (h : es.Perm engineOrder) (clk rst : Sample) (n : U32)
    (s : State) : tickIn es clk rst n s = tickIn engineOrder clk rst n s := by
  have hn : es.Nodup := h.nodup_iff.mpr (by decide)
  refine state_ext (by simp) (by simp) (fun i => ?_) (fun k => ?_) (by simp) (by simp) (by simp)
  · have hi : EngineId.cv i ∈ es := h.mem_iff.mpr (by revert i; decide)
    rw [tickIn_cvEngine_of_nodup _ _ _ _ _ hn, if_pos hi, tickIn_cvEngine]
  · have hk : EngineId.gt k ∈ es := h.mem_iff.mpr (by revert k; decide)
    rw [tickIn_gtTrack_of_nodup _ _ _ _ _ hn, if_pos hk, tickIn_gtTrack]

/-- Settles O43, from `tickIn_of_perm`. -/
theorem tickIsIndependentOfTheEngineOrder : Obligations.TickIsIndependentOfTheEngineOrder := by
  intro es clk rst n s h
  have heq := tickIn_of_perm h clk rst n s
  exact ⟨heq, by rw [heq, exec_tick]⟩

/-- Settles O51: the dispatch keeps configuration and table, and with no edge it is the identity. -/
theorem tickFrame : Obligations.TickFrame := by
  intro clk rst n s t h
  have hcv := exec_cvEngine h
  have hgt := exec_gtTrack h
  refine ⟨exec_tick_sameInterface h, fun i => ?_, fun k => ?_, fun hclk hrst =>
    ⟨fun i => ?_, fun k => ?_⟩⟩
  · rw [hcv, cvNext]
    exact ⟨dispatchCv_cfg .., dispatchCv_pat ..⟩
  · rw [hgt, gtNext]
    exact ⟨dispatchGt_cfg .., dispatchGt_pat ..⟩
  · rw [hcv, cvNext, hclk, hrst, dispatchCv_clock]
    rfl
  · rw [hgt, gtNext, hclk, hrst, dispatchGt_clock]
    rfl

/-! ### Coincident edges -/

/-- Settles O45, by which of the two edges is absent. -/
theorem oneEdgeAloneMakesTheOrdersAgree : Obligations.OneEdgeAloneMakesTheOrdersAgree := by
  intro o o' b p ce re e g hone
  rcases Bool.and_eq_false_iff.mp hone with rfl | rfl
  · simp only [dispatchCv_reset, dispatchGt_reset, and_self]
  · simp only [dispatchCv_clock, dispatchGt_clock, and_self]

section

variable {c : SeqCfg} (b : BackwardSections)

/-- The step one advance past the start position, sections disabled (R204). -/
theorem advanceCv_startOf_step (hc : c.Legal) (hL : 2 ≤ c.length.toNat) (hs : ¬ Sectioned c) :
    (advanceCv b c (startOf c)).step =
      if c.direction = .backward then at5 (c.length.toNat - 2) else 1 := by
  have hup : ¬ c.length.toNat ≤ 0 + 1 := by omega
  cases hd : c.direction with
  | forward =>
    rw [advanceCv_forward _ hd hs, fwdNosec_eq]
    simpa [startOf, hd] using hup
  | pingpong =>
    rw [advanceCv_pingpong _ hd, ppCv_eq _ _ hc]
    simp [startOf, hd, hup]
  | backward =>
    have hlast : (at5 (c.length.toNat - 1)).toNat = c.length.toNat - 1 :=
      at5_toNat (by have := hc.length_le; omega)
    have hdown : c.length.toNat - 1 ≠ 0 := by omega
    rw [advanceCv_backward _ hd hs, bwdNosec_eq _ _ hc]
    simp only [startOf, hd, if_true, hlast, if_neg hdown, Nat.sub_sub]

theorem advanceGate_startOf_step {g : GateCfg} (hc : g.seq.Legal) (hL : 2 ≤ g.seq.length.toNat)
    (hs : ¬ Sectioned g.seq) : (advanceGate b g (startOf g.seq)).step =
      if g.seq.direction = .backward then at5 (g.seq.length.toNat - 2) else 1 := by
  by_cases hd : g.seq.direction = .pingpong
  · have hup : ¬ g.seq.length.toNat ≤ 0 + 1 := by omega
    rw [advanceGate_pingpong _ hd, ppGate_eq _ hc]
    simp [startOf, hd, hup]
  · rw [advanceGate_eq_advanceCv _ hd fun _ => hs, advanceCv_startOf_step b hc hL hs]

/-- With RESET_THEN_ADVANCE (log 10) the coincident advance starts from the start position. -/
theorem dispatchCv_coincident_rt {e : CvEngine} (hc : e.cfg.Legal) :
    (dispatchCv .resetThenAdvance b true true e).rt = advanceCv b e.cfg (startOf e.cfg) := by
  rw [← resetEngine_eq_startOf e.rt hc]
  rfl

theorem dispatchGt_coincident_rt (p : U32) {g : GateTrack} (hc : g.cfg.Legal)
    (hrun : g.cfg.running = true) : (dispatchGt .resetThenAdvance b p true true g).rt =
      advanceGate b g.cfg (startOf g.cfg.seq) := by
  have hd : dispatchGt .resetThenAdvance b p true true g = gateAdvance b p (gateReset g) := rfl
  rw [hd, gateAdvance_rt, gateReset_cfg, if_pos hrun, gateReset_rt, if_pos hrun,
    resetEngine_eq_startOf _ hc.1]

/-- The other orders let the reset come last, or alone. -/
theorem dispatchCv_coincident_rt_of_ne {o : CoincidentOrder} (ho : o ≠ .resetThenAdvance)
    {e : CvEngine} (hc : e.cfg.Legal) : (dispatchCv o b true true e).rt = startOf e.cfg := by
  cases o with
  | resetThenAdvance => exact absurd rfl ho
  | advanceThenReset | resetSuppressesClock => exact resetEngine_eq_startOf e.rt hc

theorem gateReset_rt_eq_startOf {g : GateTrack} (hc : g.cfg.Legal) (hrun : g.cfg.running = true) :
    (gateReset g).rt = startOf g.cfg.seq := by
  rw [gateReset_rt, if_pos hrun, resetEngine_eq_startOf _ hc.1]

theorem dispatchGt_coincident_rt_of_ne {o : CoincidentOrder} (ho : o ≠ .resetThenAdvance)
    (p : U32) {g : GateTrack} (hc : g.cfg.Legal) (hrun : g.cfg.running = true) :
    (dispatchGt o b p true true g).rt = startOf g.cfg.seq := by
  cases o with
  | resetThenAdvance => exact absurd rfl ho
  | advanceThenReset =>
    have hcfg := gateAdvance_cfg b p g
    have hrt := gateReset_rt_eq_startOf (g := gateAdvance b p g) (by rwa [hcfg]) (by rwa [hcfg])
    rwa [hcfg] at hrt
  | resetSuppressesClock => exact gateReset_rt_eq_startOf hc hrun

end

/-- Settles O46: the tick advances from the start position, which the other orders leave. -/
theorem coincidentEdgesLeaveOneAdvancePastReset :
    Obligations.CoincidentEdgesLeaveOneAdvancePastReset := by
  intro clk rst n s hclk hrst
  obtain ⟨t, ht, hcv, hgt⟩ := exec_tick_delivered clk rst n s
  rw [hclk, hrst] at hcv hgt
  refine ⟨t, ht, fun i => ?_, fun k => ?_⟩
  · intro c hc hL hs
    refine ⟨?_, fun o b ho => dispatchCv_coincident_rt_of_ne b ho hc⟩
    rw [hcv, Config.coincidentOrder, dispatchCv_coincident_rt _ hc,
      advanceCv_startOf_step _ hc hL hs]
  · intro c hc hrun hL hs
    refine ⟨?_, fun o b p ho => dispatchGt_coincident_rt_of_ne b ho p hc hrun⟩
    have hrt := dispatchGt_coincident_rt (g := gateDecay n (s.gtTrack k)) Config.backwardSections
      Config.pulseSamples hc hrun
    rw [hgt, Config.coincidentOrder, hrt]
    exact advanceGate_startOf_step _ hc.1 hL hs

end Sys2Proof.Machine
end

section
/-!
SUPPORT. Refusals (60_exceptions.md R220 to R222, R229): every operation has a next state, nothing
happens while nothing is issued, and the first reason of the check order (30_encoding.md R79) is the
decoder's or, for a word that decodes, that of the operation's operand check.
-/

namespace Sys2Proof.Machine

open Sys2Proof.Claims

/-- Settles O9, by `exec_total`. -/
theorem everyOperationHasANextState : Obligations.EveryOperationHasANextState :=
  exec_total

/-- Settles O6: an unmarked machine looks for the next issued operation and finds none. -/
theorem stepWithoutAnOperationChangesNothing :
    Obligations.StepWithoutAnOperationChangesNothing := by
  intro s hr hp
  simp only [step, hr, hp]

/-! ### The operand check of an operation (R79 step 4) -/

/-- The reason for which the operand check of `op` fails, if it does (R76, R77). -/
def failedCheck : Instr → Option Reason
  | .cvCfg _ w | .gtCfg _ w => if w.toNat / 64 % 4 = 3 then some .badDirection else none
  | .gtWrstate _ _ v => if 2 < v.toNat then some .badTriState else none
  | _ => none

theorem wellFormed_of_failedCheck_eq_none {op : Instr} (h : failedCheck op = none) :
    op.WellFormed = true := by
  cases op with
  | cvCfg i w | gtCfg k w =>
    refine (cfg_wellFormed_iff w).mpr ?_
    simpa [failedCheck, validate_eq_none_iff] using h
  | gtWrstate k slot v => simpa [failedCheck, Instr.WellFormed] using h
  | _ => rfl

/-- A failed operand check is what the operation is refused for. -/
theorem exec_of_failedCheck {op : Instr} {r : Reason} (h : failedCheck op = some r) (s : State) :
    exec op s = .next (refuse (encodeWord op) r s) := by
  cases op with
  | cvCfg i w | gtCfg k w =>
    obtain ⟨hw, rfl⟩ : w.toNat / 64 % 4 = 3 ∧ Reason.badDirection = r := by
      simpa [failedCheck] using h
    simp [exec, execCvCfg, execGtCfg, (validate_eq_none_iff w).mpr hw]
  | gtWrstate k slot v =>
    obtain ⟨hv, rfl⟩ : 2 < v.toNat ∧ Reason.badTriState = r := by
      simpa [failedCheck] using h
    simp [exec, execGtWrstate, (triStateOf_eq_none_iff v).mpr hv]
  | _ => cases h

/-! ### The first reason of the check order -/

/-- The operand check of the operation a word names, read off the word and the bus: codes 2 and 8
are the configuration writes and 15 is `gt.wrstate` (R78). -/
theorem failedCheck_operationOf (w : OpWord) (x : Operands) : failedCheck (operationOf w x) =
    if (w.toNat / 4096 = 2 ∨ w.toNat / 4096 = 8) ∧ x.cfg.toNat / 64 % 4 = 3 then some .badDirection
    else if w.toNat / 4096 = 15 ∧ 2 < x.code.toNat then some .badTriState
    else none := by
  have hlt : (opOf w).toNat < 16 := (opOf w).isLt
  rw [← opOf_toNat, operationOf]
  generalize (opOf w).toNat = k at hlt
  interval_cases k
  -- the second code is `edge`, and neither of its two operations has an operand check
  rotate_left
  · by_cases hsel : selOf w = 0#2 <;> simp [failedCheck, hsel]
  all_goals simp [failedCheck]

/-- The first reason, by the decoder's own checks. -/
theorem firstReason_eq (w : OpWord) (x : Operands) : firstReason w x =
    if reservedBitsSet w then some .reservedBits
    else if instanceOutOfRange w then some .badInstance
    else if selectOutOfRange w then some .badSelect
    else failedCheck (operationOf w x) := by
  simp only [reservedBitsSet_iff, instanceOutOfRange_iff, selectOutOfRange_iff,
    failedCheck_operationOf]
  rfl

theorem firstReason_of_decode_error {w : OpWord} {x : Operands} {r : Reason}
    (h : decode w x = .error r) : firstReason w x = some r := by
  rw [firstReason_eq]
  unfold decode at h
  split_ifs at h ⊢ <;> cases h <;> rfl

theorem firstReason_of_decode_ok {w : OpWord} {x : Operands} {op : Instr}
    (h : decode w x = .ok op) : firstReason w x = failedCheck op := by
  obtain ⟨hr, hi, hs, rfl⟩ := (decode_eq_ok_iff w x op).mp h
  simp [firstReason_eq, hr, hi, hs]

/-! ### The step on an issued operation -/

section Issued

variable {s : State} {o : Operation} {rest : List Operation} (hr : s.refused = none)
  (hp : s.pending = o :: rest)

include hr hp

theorem step_of_firstReason_eq_some {r : Reason} (h : firstReason o.word o.operands = some r) :
    step s = .next (refuse o.word r (s.setPending rest)) := by
  rw [step_of_issued hr hp]
  cases hd : decode o.word o.operands with
  | error r' =>
    rw [firstReason_of_decode_error hd] at h
    cases h
    rfl
  | ok op =>
    rw [firstReason_of_decode_ok hd] at h
    rw [← encodeWord_of_decode hd]
    exact exec_of_failedCheck h _

theorem step_of_firstReason_eq_none (h : firstReason o.word o.operands = none) :
    ∃ op t, decode o.word o.operands = .ok op ∧ step s = exec op (s.setPending rest) ∧
      step s = .next t ∧ t.refused = none := by
  cases hd : decode o.word o.operands with
  | error r =>
    rw [firstReason_of_decode_error hd] at h
    cases h
  | ok op =>
    rw [firstReason_of_decode_ok hd] at h
    obtain ⟨t, ht⟩ := exec_total op (s.setPending rest)
    have hstep : step s = exec op (s.setPending rest) := by rw [step_of_issued hr hp, hd]
    have hmark := (exec_mark ht).1 (wellFormed_of_failedCheck_eq_none h)
    exact ⟨op, t, rfl, hstep, hstep.trans ht, hmark.trans hr⟩

end Issued

/-- Settles O7, by whether a reason applies to the next issued operation. -/
theorem refusalsFollowTheCheckOrder : Obligations.RefusalsFollowTheCheckOrder := by
  refine ⟨fun s o rest hr hp => ⟨fun r h => ?_, fun h => ?_⟩, fun s m hm => step_of_marked hm⟩
  · exact ⟨_, step_of_firstReason_eq_some hr hp h, rfl,
      refuse_sameBlock o.word r (s.setPending rest)⟩
  · obtain ⟨op, t, hd, hstep, ht, hmark⟩ := step_of_firstReason_eq_none hr hp h
    exact ⟨op, t, hd, encodeWord_of_decode hd, hstep, ht, hmark⟩

end Sys2Proof.Machine
end

section
/-!
SUPPORT. Reset and power-on (70_reset_and_hazards.md R240, R242): a reset reads only the configuration,
so it changes nothing the second time, nor on an engine that is already at its start state.
-/

namespace Sys2Proof.Machine

open Sys2Proof.Claims

/-! ### A second reset changes nothing -/

theorem cvReset_cvReset (e : CvEngine) : cvReset (cvReset e) = cvReset e := rfl

theorem gateReset_of_running {g : GateTrack} (h : g.cfg.running = true) :
    gateReset g = { g with rt := resetEngine g.cfg.seq g.rt } := if_pos h

theorem gateReset_gateReset (g : GateTrack) : gateReset (gateReset g) = gateReset g := by
  cases hrun : g.cfg.running with
  | false => rw [gateReset_of_stopped hrun, gateReset_of_stopped hrun]
  | true =>
    rw [gateReset_of_running (g := gateReset g) (by rwa [gateReset_cfg]),
      gateReset_of_running hrun]
    rfl

/-- Settles O33, from `cvReset_cvReset` and `gateReset_gateReset`. -/
theorem resetIsIdempotentFromAnyState : Obligations.ResetIsIdempotentFromAnyState := by
  refine ⟨fun s t i hexec => ?_, fun s t k hexec => ?_⟩
  · obtain rfl : (s.updCv i cvReset).setResult none = t := Host.Outcome.next.inj hexec
    refine ⟨done_updCv_twice (cvReset_cvReset _), fun hc => ?_⟩
    rw [setResult_cvEngine, updCv_cvEngine, if_pos rfl, cvReset_rt, resetEngine_eq_startOf _ hc]
  · obtain rfl : (s.updGt k gateReset).setResult none = t := Host.Outcome.next.inj hexec
    refine ⟨done_updGt_twice (gateReset_gateReset _), fun hc hrun => ?_⟩
    rw [setResult_gtTrack, updGt_gtTrack, if_pos rfl, gateReset_rt_eq_startOf hc hrun]

/-! ### Power-on is a start state -/

theorem atPowerOn_eq_startOf {c : SeqCfg} (hc : c.Legal) : Runtime.atPowerOn c = startOf c := by
  rw [atPowerOn_eq_resetEngine (startOf c) hc, resetEngine_eq_startOf _ hc]

theorem cvReset_of_startOf {e : CvEngine} (hc : e.cfg.Legal) (hrt : e.rt = startOf e.cfg) :
    cvReset e = e := by
  rw [cvReset, resetEngine_eq_startOf _ hc, ← hrt]

/-- A running track is reset to where it already is; a stopped one ignores the reset (R165). -/
theorem gateReset_of_startOf {g : GateTrack} (hc : g.cfg.Legal) (hrt : g.rt = startOf g.cfg.seq) :
    gateReset g = g := by
  cases hrun : g.cfg.running with
  | false => exact gateReset_of_stopped hrun
  | true => rw [gateReset_of_running hrun, resetEngine_eq_startOf _ hc.1, ← hrt]

/-- Settles O11, from `atPowerOn_eq_startOf`; nothing is issued at power-on, so the block waits. -/
theorem powerOnLeavesTheStartState : Obligations.PowerOnLeavesTheStartState := by
  intro cc gc cp gp hc hg s
  refine ⟨rfl, rfl, fun i => ?_, fun k => ?_, rfl, stepWithoutAnOperationChangesNothing s rfl rfl⟩
  · rw [powerOn_cvEngine, atPowerOn_eq_startOf (hc i)]
    exact ⟨rfl, cvReset_of_startOf (hc i) rfl⟩
  · rw [powerOn_gtTrack, atPowerOn_eq_startOf (hg k).1]
    exact ⟨rfl, gateReset_of_startOf (hg k) rfl⟩

end Sys2Proof.Machine
end
